-- ==== Sys2Proof/Word.lean ====
section
/-! DEFINITION. The data widths of the engine (spec 00_scope.md R6, R7): bytes on the sensor side, 16-bit coefficient
patterns, 32-bit words on the host side and inside the compensation engine. Bit 0 is the least significant bit. -/

namespace Sys2Proof

/-- A byte of a sensor register, or a command word (R30, R50). -/
abbrev Byte := BitVec 8

/-- The pattern a calibration register holds (R12). -/
abbrev Half := BitVec 16

/-- A 32-bit register; `s32` and `u32` of R7 are this one pattern read signed (`toInt`) or unsigned (`toNat`). -/
abbrev Word := BitVec 32

end Sys2Proof
end

