-- ==== Sys2Proof/Config.lean ====
section
/-! DEFINITION. What the spec leaves to the implementation ("Open parameters", 92_eei_decisions.md). `PFront` and `PCorr`
are configuration FUNCTIONS: their types are here, the default bodies this hardware takes (R5 e, R104, R108) are
`pFront` and `pCorr` of Machine/Formulas.lean, and `compPWith` there takes any two bodies of these types. -/

namespace Sys2Proof.Config

/-- The clock ticks of the 5 ms delay, named OPEN by R5 (d) and R155: no rule depends on it and nothing in the model reads
it (the model has no time). -/
opaque delayTicks : Nat

/-- The coefficients of the pressure front end, already widened to 32 bits (R104). -/
structure FrontInput where
  fine : Word
  p1 : Word
  p2 : Word
  p3 : Word
  p4 : Word
  p5 : Word
  p6 : Word
  deriving DecidableEq, Repr

/-- What the front end gives: the first-stage denominator `var1` and the offset term `var2` (R104). -/
structure FrontOutput where
  var1 : Word
  var2 : Word
  deriving DecidableEq, Repr

/-- The type of `PFront` (R104): it reads only the fine temperature and P1..P6, and it is pure. -/
abbrev PFront := FrontInput → FrontOutput

/-- The type of `PCorr` (R108): it reads only `p` and P7, P8, P9 (in that order), and it is pure. -/
abbrev PCorr := Word → Word → Word → Word → Word

end Sys2Proof.Config
end

