-- ==== Sys2Proof/Machine/Arith.lean ====
section
/-! DEFINITION. The arithmetic primitives of spec 00_scope.md R7 on 32-bit words: each computes on unbounded integers and then
brings the result back into 32 bits. A signed operand is read by `toInt`, an unsigned one by `toNat`; `s32(x)` of a `u32` and
`u32(x)` of an `s32` keep the 32 bits (R100 d), so they are the identity here. -/

namespace Sys2Proof.Machine

/-- `wrap32(x)`, and `u32(x)` of a mathematical integer: the 32-bit pattern congruent to `x` modulo 2^32 (R7). -/
def wrap32 (x : Int) : Word := BitVec.ofInt 32 x

/-- `add32` (R7) -/
def add32 (a b : Word) : Word := wrap32 (a.toInt + b.toInt)

/-- `sub32` (R7) -/
def sub32 (a b : Word) : Word := wrap32 (a.toInt - b.toInt)

/-- `mul32`: the low 32 bits of the signed product (R7) -/
def mul32 (a b : Word) : Word := wrap32 (a.toInt * b.toInt)

/-- `shl32`: bits shifted out are lost (R7) -/
def shl32 (a : Word) (n : Nat) : Word := wrap32 (a.toInt * 2 ^ n)

/-- `asr32`: arithmetic right shift, rounding toward minus infinity (R7); `/` of Lean's `Int` by a positive number is the
floor. -/
def asr32 (a : Word) (n : Nat) : Word := wrap32 (a.toInt / 2 ^ n)

/-- `umul32` (R7) -/
def umul32 (a b : Word) : Word := BitVec.ofNat 32 (a.toNat * b.toNat)

/-- `ushl32` (R7) -/
def ushl32 (a : Word) (n : Nat) : Word := BitVec.ofNat 32 (a.toNat * 2 ^ n)

/-- `lsr32`: logical right shift (R7) -/
def lsr32 (a : Word) (n : Nat) : Word := BitVec.ofNat 32 (a.toNat / 2 ^ n)

/-- `udiv32`, which the engine never evaluates with a zero divisor (R7, R105) -/
def udiv32 (a b : Word) : Word := BitVec.ofNat 32 (a.toNat / b.toNat)

/-- `zext_32` of a 16-bit pattern (R6) -/
def zext32 (h : Half) : Word := h.setWidth 32

/-- `sext_32` of a 16-bit pattern (R6) -/
def sext32 (h : Half) : Word := h.signExtend 32

end Sys2Proof.Machine
end

