-- ==== Sys2Proof/Machine/State.lean ====
section
/-! DEFINITION. The state, as plain data. `Block` is every piece of state the spec gives the engine (10_state.md R11 to R19,
and no other, R22); `State` adds what stands outside the block and drives it: the host accesses still to come, the
transport's answers still to come, and what the outside has seen so far. -/

namespace Sys2Proof.Machine

/-- The micro-step to execute next (R19); its encoding in bits is not architectural. -/
inductive Upc where
  | uNone
  | uOpen
  | uRdid
  | uRdcal
  | uTrig
  | uPoll
  | uDelay
  | uData
  | uClose
  | uAbort
  | uCompT
  | uCompP
  deriving DecidableEq, Repr

/-- `STATUS.PHASE` (R15, R98); codes 6 and 7 never occur, so they are no constructors. -/
inductive Phase where
  | idle
  | triggered
  | polling
  | complete
  | failed
  | running
  deriving DecidableEq, Repr

/-- `ERRCODE` (R16, R120); code 7 never occurs, so it is no constructor. -/
inductive ErrCode where
  | none
  | transportOpenError
  | transportIOError
  | identityMismatch
  | invalidCalibration
  | timeoutError
  | illegalCommand
  deriving DecidableEq, Repr

/-- A stage of a command (R71). -/
inductive Stage where
  | sId
  | sCal
  | sMeasT
  | sMeasP
  | sCompT
  | sCompP
  deriving DecidableEq, Repr

/-- The quantity of a measurement stage (42_measurement.md section 3). -/
inductive Quantity where
  | temperature
  | pressure
  deriving DecidableEq, Repr

/-- A transport event, with its arguments (R32). -/
inductive Event where
  | busOpen (addr : BitVec 7)
  | busRead (reg : Byte) (len : Nat)
  | busWrite (reg : Byte) (val : Byte)
  | busClose
  | delay
  deriving DecidableEq, Repr

/-- A transport answer (R33): `Err`, or `Ok` with the bytes of a read. -/
inductive Answer where
  | ok (bytes : List Byte)
  | err
  deriving DecidableEq, Repr

/-- One event the engine has issued, and the answer it heard, if the event has one (R32). -/
structure Exchange where
  event : Event
  answer : Option Answer
  deriving DecidableEq, Repr

/-- What comes to the block on the host side: `HostRead`, `HostWrite` (R21), the `WAIT` loop of a host program (R60), and
the external event `Reset` (R140). -/
inductive Input where
  | read (index : BitVec 5)
  | write (index : BitVec 5) (value : Word)
  | wait
  | reset
  deriving DecidableEq, Repr

/-- One input, and how many micro-steps the engine takes between it and the next one: R21 (d) allows every interleaving, and
this number says which one a run is. -/
structure Turn where
  input : Input
  room : Nat
  deriving DecidableEq, Repr

/-- The calibration store `CAL[0]` to `CAL[11]`, each a 16-bit pattern, under the coefficient's name (R12). -/
structure Cal where
  t1 : Half
  t2 : Half
  t3 : Half
  p1 : Half
  p2 : Half
  p3 : Half
  p4 : Half
  p5 : Half
  p6 : Half
  p7 : Half
  p8 : Half
  p9 : Half
  deriving DecidableEq, Repr

/-- Every state element of the engine, in the order of R23's table. `STATUS.ERR` is not stored (R15). -/
structure Block where
  /-- `CMD` (R14) -/
  cmd : Byte
  /-- `STATUS.BUSY` (R15) -/
  busy : Bool
  /-- `STATUS.DONE` (R15) -/
  done : Bool
  /-- `STATUS.CAL_LOADED` (R15) -/
  calLoaded : Bool
  /-- `STATUS.FINE_VALID` (R15) -/
  fineValid : Bool
  /-- `STATUS.ID_MATCH` (R15) -/
  idMatch : Bool
  /-- `STATUS.POLL_EXHAUSTED` (R15) -/
  pollExhausted : Bool
  /-- `STATUS.HANDLE_OPEN` (R15, R19) -/
  handleOpen : Bool
  /-- `STATUS.PHASE` (R15) -/
  phase : Phase
  /-- `ERRCODE` (R16) -/
  errCode : ErrCode
  /-- `CTRL.TIMEOUT_EN` (R17) -/
  timeoutEn : Bool
  /-- `BUSADDR` (R18) -/
  busAddr : BitVec 7
  /-- `ADC_T` (R13) -/
  adcT : Word
  /-- `ADC_P` (R13) -/
  adcP : Word
  /-- `T_FINE` (R13) -/
  tFine : Word
  /-- `T_OUT` (R13) -/
  tOut : Word
  /-- `P_OUT` (R13) -/
  pOut : Word
  /-- `CAL[0..11]` (R12) -/
  cal : Cal
  /-- `OP` (R19) -/
  op : BitVec 4
  /-- `OSRS` (R19) -/
  osrs : BitVec 3
  /-- `STAGE` (R19) -/
  stage : BitVec 3
  /-- `UPC` (R19) -/
  upc : Upc
  /-- `POLL_CNT` (R19) -/
  pollCnt : BitVec 5
  deriving DecidableEq, Repr

/-- The block and, outside it, what drives it and what it has shown (the model's own fields, log entries 1 to 4). -/
structure State where
  /-- the state of the engine -/
  blk : Block
  /-- the inputs still to come, in the order in which they come -/
  inputs : List Turn
  /-- micro-steps the engine takes before the next input, handed from a `Turn` to the meaning; 0 between steps -/
  room : Nat
  /-- the transport's answers still to come, in order; none left: the transport does not answer (R33, R153) -/
  answers : List Answer
  /-- the transport events issued so far with their answers, oldest first (R32) -/
  trace : List Exchange
  /-- the values host reads have returned, oldest first (R21 a) -/
  replies : List Word
  deriving DecidableEq, Repr

/-- Why the machine stops. -/
inductive Fault where
  /-- `BUSY = 1` at a control position (OP, STAGE, UPC) for which the spec gives no micro-step. Raised by `engineStep` only;
  R24 says that no run reaches such a position. Safe: the model stops where the spec gives nothing. -/
  | noMicroStep
  deriving DecidableEq, Repr

/-- Why an instruction has no meaning. -/
inductive Refusal where
  /-- Raised by an arm of `exec` whose command has no meaning yet (none in this model). Safe. -/
  | notModelled (mnemonic : String)
  deriving DecidableEq, Repr

/-- The store after reset: `CAL[0..11] = 0x0000` (R23). -/
def Cal.reset : Cal := ⟨0, 0, 0, 0, 0, 0, 0, 0, 0, 0, 0, 0⟩

/-- Every state element at the value of R23. -/
def Block.reset : Block where
  cmd := 0
  busy := false
  done := false
  calLoaded := false
  fineValid := false
  idMatch := false
  pollExhausted := false
  handleOpen := false
  phase := .idle
  errCode := .none
  timeoutEn := false
  busAddr := 0
  adcT := 0
  adcP := 0
  tFine := 0
  tOut := 0
  pOut := 0
  cal := Cal.reset
  op := 0
  osrs := 0
  stage := 0
  upc := .uNone
  pollCnt := 0

/-- The machine right after reset, nothing having come to it or been asked of it yet (R23, R140). -/
def State.reset : State where
  blk := Block.reset
  inputs := []
  room := 0
  answers := []
  trace := []
  replies := []

end Sys2Proof.Machine
end

