-- ==== Sys2Proof/Machine/Operands.lean ====
section
/-! DEFINITION. Operand forms and wire formats: the accuracy mapping (spec R90), the sensor's register map (R4, R31), the
control byte (R55), the status byte (R56), the calibration block (R57, R85), the raw value (R58, R97), and how the engine
reads a coefficient (R12). -/

namespace Sys2Proof.Machine

/-- `mapAccuracy` on the ACC field (R90). -/
def mapAccuracy (acc : BitVec 3) : BitVec 3 :=
  if acc.toNat ≤ 4 then acc + 1 else 1

/-- REG_ID (R4, R31) -/
def regId : Byte := 0xD0

/-- REG_STATUS (R4, R31) -/
def regStatus : Byte := 0xF3

/-- REG_CTRL (R4, R31) -/
def regCtrl : Byte := 0xF4

/-- REG_CALIB (R4, R31) -/
def regCalib : Byte := 0x88

/-- REG_PDATA (R4, R31) -/
def regPData : Byte := 0xF7

/-- REG_TDATA (R4, R31) -/
def regTData : Byte := 0xFA

/-- REG_RESET and REG_CONFIG (R4), which no event names (R44). -/
def regsNeverAccessed : List Byte := [0xE0, 0xF5]

/-- CALIB_LEN (R4) -/
def calibLen : Nat := 24

/-- SIGNATURE (R4) -/
def signature : Byte := 0x58

/-- POLL_MAX (R4) -/
def pollMax : Nat := 30

/-- SHIFT_T and SHIFT_P (R4) -/
def ctrlShift : Quantity → Nat
  | .temperature => 5
  | .pressure => 2

/-- `dreg(q)`: the first of a quantity's three data registers (R96). -/
def dataReg : Quantity → Byte
  | .temperature => regTData
  | .pressure => regPData

/-- The trigger byte, `(0x01 | (OSRS << sh(q)))[7:0]` (R55, R93). -/
def ctrlByte (q : Quantity) (osrs : BitVec 3) : Byte :=
  BitVec.ofNat 8 (1 ||| (osrs.toNat <<< ctrlShift q))

/-- `busy(s)`: bit 3 of the status byte, the measuring flag (R56). -/
def measuring (s : Byte) : Bool := s.getLsbD 3

/-- `decodeRaw`: 20 bits out of three bytes, the first the most significant (R35, R58, R97). -/
def decodeRaw (b0 b1 b2 : Byte) : BitVec 20 :=
  (b0.setWidth 20 <<< 12) ||| (b1.setWidth 20 <<< 4) ||| (b2.setWidth 20 >>> 4)

/-- Field `i` of a calibration block: `b[2i+1] ++ b[2i]`, the lower address the less significant (R34). -/
def calField (bs : List Byte) (i : Nat) : Half :=
  bs.getD (2 * i + 1) 0 ++ bs.getD (2 * i) 0

/-- `decodeCal`: the twelve fields in the order of R57. -/
def decodeCal (bs : List Byte) : Cal where
  t1 := calField bs 0
  t2 := calField bs 1
  t3 := calField bs 2
  p1 := calField bs 3
  p2 := calField bs 4
  p3 := calField bs 5
  p4 := calField bs 6
  p5 := calField bs 7
  p6 := calField bs 8
  p7 := calField bs 9
  p8 := calField bs 10
  p9 := calField bs 11

/-- `CAL[i]` (R12); the host's map uses `i` in 0 to 11 only. -/
def Cal.get (c : Cal) (i : Nat) : Half :=
  match i with
  | 0 => c.t1
  | 1 => c.t2
  | 2 => c.t3
  | 3 => c.p1
  | 4 => c.p2
  | 5 => c.p3
  | 6 => c.p4
  | 7 => c.p5
  | 8 => c.p6
  | 9 => c.p7
  | 10 => c.p8
  | 11 => c.p9
  | _ => 0

/-- `CAL[i] <- v`, the other eleven unchanged (R12). -/
def Cal.set (c : Cal) (i : Nat) (v : Half) : Cal :=
  match i with
  | 0 => { c with t1 := v }
  | 1 => { c with t2 := v }
  | 2 => { c with t3 := v }
  | 3 => { c with p1 := v }
  | 4 => { c with p2 := v }
  | 5 => { c with p3 := v }
  | 6 => { c with p4 := v }
  | 7 => { c with p5 := v }
  | 8 => { c with p6 := v }
  | 9 => { c with p7 := v }
  | 10 => { c with p8 := v }
  | 11 => { c with p9 := v }
  | _ => c

end Sys2Proof.Machine
end

