-- ==== Sys2Proof/Machine/Formulas.lean ====
section
/-! DEFINITION. The two pure compensation functions (spec 43_compensation.md R100 to R112). -/

namespace Sys2Proof.Machine

open Sys2Proof.Config

/-! ## Temperature -/

/-- The operands of the temperature function, widened to 32 bits (R100 e). -/
structure TempInput where
  adc : Word
  t1 : Word
  t2 : Word
  t3 : Word
  deriving DecidableEq, Repr

/-- The first term of the fine temperature (R101). -/
def tempVar1 (x : TempInput) : Word :=
  let d1 := sub32 (asr32 x.adc 3) (shl32 x.t1 1)
  asr32 (mul32 d1 x.t2) 11

/-- The second term of the fine temperature (R101). -/
def tempVar2 (x : TempInput) : Word :=
  let d2 := sub32 (asr32 x.adc 4) x.t1
  asr32 (mul32 (asr32 (mul32 d2 d2) 12) x.t3) 14

/-- `fine` of `compT` (R101). -/
def compTFine (x : TempInput) : Word := add32 (tempVar1 x) (tempVar2 x)

/-- `T` of `compT`, from `fine`: hundredths of a degree Celsius (R101, R111). -/
def compTOut (fine : Word) : Word := asr32 (add32 (mul32 fine 5) 128) 8

/-- `compT` (R101): the pair (fine, T). -/
def compT (x : TempInput) : Word × Word := (compTFine x, compTOut (compTFine x))

/-! ## Pressure -/

/-- The operands of the pressure function, widened to 32 bits (R100 e). -/
structure PressInput where
  adc : Word
  front : FrontInput
  p7 : Word
  p8 : Word
  p9 : Word
  deriving DecidableEq, Repr

/-- `PFront`, stage 1, with the default body of R104 (log entry 5: the spec takes the body from general knowledge). -/
def pFront : PFront := fun x =>
  let v1 := sub32 (asr32 x.fine 1) (wrap32 64000)
  let q := asr32 v1 2
  let qq := mul32 q q
  let v2 := mul32 (asr32 qq 11) x.p6
  let v2 := add32 v2 (shl32 (mul32 v1 x.p5) 1)
  let v2 := add32 (asr32 v2 2) (shl32 x.p4 16)
  let w := add32 (asr32 (mul32 x.p3 (asr32 qq 13)) 3) (asr32 (mul32 x.p2 v1) 1)
  let v1 := asr32 w 18
  { var1 := asr32 (mul32 (add32 (wrap32 32768) v1) x.p1) 15, var2 := v2 }

/-- Stage 3: `p = 3125 * ((1048576 - adc_P) - (var2>>12))` (R106). -/
def scale (adc var2 : Word) : Word :=
  umul32 (sub32 (sub32 (wrap32 1048576) adc) (asr32 var2 12)) (wrap32 3125)

/-- Stage 4, the two-way unsigned division by `u32(var1)` (R107); reached only with `var1 ≠ 0`. -/
def divide (p var1 : Word) : Word :=
  if p.toNat < 0x80000000 then udiv32 (ushl32 p 1) var1 else umul32 (udiv32 p var1) 2

/-- `PCorr`, stage 5, with the default body of R108 (log entry 5: the spec takes the body from general knowledge). -/
def pCorr : PCorr := fun p p7 p8 p9 =>
  let h := lsr32 p 3
  let c1 := asr32 (mul32 p9 (lsr32 (umul32 h h) 13)) 12
  let c2 := asr32 (mul32 (lsr32 p 2) p8) 13
  add32 p (asr32 (add32 (add32 c1 c2) p7) 4)

/-- `compP` over any front end and any correction: the five stages in order, with the zero guard (R103, R105). The result is
the pair (p, invalid). -/
def compPWith (front : PFront) (corr : PCorr) (x : PressInput) : Word × Bool :=
  let v := front x.front
  if v.var1 = 0 then (0, true)
  else (corr (divide (scale x.adc v.var2) v.var1) x.p7 x.p8 x.p9, false)

/-- `compP` as this hardware has it (R103, R5 e). -/
def compP (x : PressInput) : Word × Bool := compPWith pFront pCorr x

/-! ## The operands in the registers -/

/-- The operands of `COMPT` (R102): T1 zero-extended, T2 and T3 sign-extended. -/
def tempOperands (b : Block) : TempInput where
  adc := b.adcT
  t1 := zext32 b.cal.t1
  t2 := sext32 b.cal.t2
  t3 := sext32 b.cal.t3

/-- The operands of `COMPP` (R109): P1 zero-extended, P2 to P9 sign-extended, the fine temperature from `T_FINE`. -/
def pressOperands (b : Block) : PressInput where
  adc := b.adcP
  front :=
    { fine := b.tFine
      p1 := zext32 b.cal.p1
      p2 := sext32 b.cal.p2
      p3 := sext32 b.cal.p3
      p4 := sext32 b.cal.p4
      p5 := sext32 b.cal.p5
      p6 := sext32 b.cal.p6 }
  p7 := sext32 b.cal.p7
  p8 := sext32 b.cal.p8
  p9 := sext32 b.cal.p9

end Sys2Proof.Machine
end

