-- ==== Sys2Proof/Syntax.lean ====
section
/-! DEFINITION. The seven host commands, one constructor per row of spec/opcode_table.json (spec 30_encoding.md R51), and
the symbolic accuracy request of the measuring commands (R52). -/

namespace Sys2Proof

/-- The accuracy a measuring command asks for (R52). The five named values are ACC 0 to 4. `unrecognized code` is the
"(unrecognized)" row of R52, whose ACC field holds `code`: legal, and not an error. -/
inductive Accuracy where
  | ultraLow
  | low
  | standard
  | high
  | ultraHigh
  | unrecognized (code : BitVec 3)
  deriving DecidableEq, Repr

/-- The commands (R51). -/
inductive Instr where
  /-- read the identity register and compare it with the signature (R81) -/
  | verify
  /-- read the calibration block into the store (R83) -/
  | calib
  /-- one temperature measurement (R91) -/
  | rdut (acc : Accuracy)
  /-- one pressure measurement (R92) -/
  | rdup (acc : Accuracy)
  /-- both measurements, calibration, both compensations (R115) -/
  | rdpa (acc : Accuracy)
  /-- temperature compensation (R102) -/
  | compt
  /-- pressure compensation (R109) -/
  | compp
  deriving DecidableEq, Repr

end Sys2Proof
end

