-- ==== Sys2Proof/WellFormed.lean ====
section
/-! DEFINITION. Which terms of `Instr` stand for a command word: the `unrecognized` accuracy is the rest of the ACC values,
5, 6 and 7 (spec 30_encoding.md R52); every other constructor is well formed as it stands. -/

namespace Sys2Proof

/-- `unrecognized` names exactly the ACC values that have no symbol (R52). -/
def Accuracy.wf : Accuracy → Bool
  | .unrecognized code => decide (5 ≤ code.toNat)
  | .ultraLow | .low | .standard | .high | .ultraHigh => true

/-- A command is well formed when its operand is (R50, R52). -/
def Instr.wf : Instr → Bool
  | .rdut acc | .rdup acc | .rdpa acc => acc.wf
  | .verify | .calib | .compt | .compp => true

end Sys2Proof
end

