-- ==== Sys2Proof/Decode.lean ====
section
/-! DEFINITION. Command words: decoding, total on the 256 bytes and rejecting the 228 illegal ones by name, and the encoder
(spec 30_encoding.md R50 to R53, R61). -/

namespace Sys2Proof

/-- Why a command word is illegal (R53: 144, 60 and 24 words). -/
inductive Reject where
  /-- OPC 0 or 8 to 15 -/
  | reservedOpcode
  /-- a format N opcode whose low four bits are not zero -/
  | operandNotZero
  /-- a format M opcode with bit 3 set -/
  | bitThreeSet
  deriving DecidableEq, Repr

/-- OPC, bits 7:4 of a command word (R50). -/
def opcField (w : Byte) : BitVec 4 := w.extractLsb' 4 4

/-- The operand field, bits 3:0 (R14, R50). -/
def operandField (w : Byte) : BitVec 4 := w.extractLsb' 0 4

/-- ACC, bits 2:0 (R50). -/
def accField (w : Byte) : BitVec 3 := w.extractLsb' 0 3

/-- The symbol of an ACC value (R52). -/
def accuracyOf (acc : BitVec 3) : Accuracy :=
  match acc.toNat with
  | 0 => .ultraLow
  | 1 => .low
  | 2 => .standard
  | 3 => .high
  | 4 => .ultraHigh
  | _ => .unrecognized acc

/-- The ACC value of a symbol (R52). -/
def accBits : Accuracy → BitVec 3
  | .ultraLow => 0
  | .low => 1
  | .standard => 2
  | .high => 3
  | .ultraHigh => 4
  | .unrecognized code => code

/-- Format N: the operand field must be 0000 (R50). -/
def formatN (w : Byte) (i : Instr) : Except Reject Instr :=
  if operandField w = 0 then .ok i else .error .operandNotZero

/-- Format M: bit 3 must be 0, ACC is bits 2:0 (R50). -/
def formatM (w : Byte) (mk : Accuracy → Instr) : Except Reject Instr :=
  if w.getLsbD 3 then .error .bitThreeSet else .ok (mk (accuracyOf (accField w)))

/-- The command a word stands for (R51); a word that stands for none is rejected by name (R53). -/
def decode (w : Byte) : Except Reject Instr :=
  match (opcField w).toNat with
  | 1 => formatN w .verify
  | 2 => formatN w .calib
  | 3 => formatM w .rdut
  | 4 => formatM w .rdup
  | 5 => formatM w .rdpa
  | 6 => formatN w .compt
  | 7 => formatN w .compp
  | _ => .error .reservedOpcode

/-- OPC of a command (R51). -/
def opcode : Instr → BitVec 4
  | .verify => 1
  | .calib => 2
  | .rdut _ => 3
  | .rdup _ => 4
  | .rdpa _ => 5
  | .compt => 6
  | .compp => 7

/-- The operand field of a command: 0000 in format N, `0 ++ ACC` in format M (R50). -/
def operandBits : Instr → BitVec 4
  | .rdut acc | .rdup acc | .rdpa acc => 0#1 ++ accBits acc
  | .verify | .calib | .compt | .compp => 0

/-- The command word, `OPC ++ operand field` (R50). -/
def encode (i : Instr) : Byte := opcode i ++ operandBits i

/-- The command in the low `nbits` bits of `w`, numbered as spec/opcode_table.json numbers them: the word is one byte, bit 0
its least significant bit. -/
def decodeTableWord (nbits w : Nat) : Option Instr :=
  (decode (BitVec.ofNat 8 (w % 2 ^ nbits))).toOption

end Sys2Proof
end

