-- ==== Sys2Proof/Machine/Flags.lean ====
section
/-! DEFINITION. The codes and the status word the host reads (spec R15, R16). -/

namespace Sys2Proof.Machine

/-- PHASE as the host reads it (R15). -/
def Phase.code : Phase → BitVec 3
  | .idle => 0
  | .triggered => 1
  | .polling => 2
  | .complete => 3
  | .failed => 4
  | .running => 5

/-- ERRCODE as the host reads it (R16). -/
def ErrCode.code : ErrCode → BitVec 3
  | .none => 0
  | .transportOpenError => 1
  | .transportIOError => 2
  | .identityMismatch => 3
  | .invalidCalibration => 4
  | .timeoutError => 5
  | .illegalCommand => 6

/-- The codes that are failures: 1, 2, 5 and 6 (R16). -/
def ErrCode.isFailure : ErrCode → Bool
  | .transportOpenError | .transportIOError | .timeoutError | .illegalCommand => true
  | .none | .identityMismatch | .invalidCalibration => false

/-- `STATUS.ERR`, combinational (R15). -/
def Block.err (b : Block) : Bool := b.errCode.isFailure

/-- The 11 bits of `STATUS`, PHASE in bits 10:8 down to BUSY in bit 0 (R15). -/
def Block.status (b : Block) : BitVec 11 :=
  b.phase.code ++ BitVec.ofBool b.handleOpen ++ BitVec.ofBool b.pollExhausted ++ BitVec.ofBool b.idMatch
    ++ BitVec.ofBool b.fineValid ++ BitVec.ofBool b.calLoaded ++ BitVec.ofBool b.err ++ BitVec.ofBool b.done
    ++ BitVec.ofBool b.busy

end Sys2Proof.Machine
end

