-- ==== Sys2Proof/Machine/Ops.lean ====
section
/-! DEFINITION. The shared operations: the host register file (spec R11, R21), stages and stage entry (R71, R72, R74), the two
ways a command ends (R75, R76, R77), raising an error (R8, R125), acceptance of a command word (R54, R78) and reset (R140). -/

namespace Sys2Proof.Machine

/-! ## The host register file -/

/-- `HostRead(i)`: the register, zero-extended; an unmapped index reads 0 (R11, R21 a). -/
def hostRead (i : BitVec 5) (b : Block) : Word :=
  match i.toNat with
  | 0 => b.cmd.setWidth 32
  | 1 => b.status.setWidth 32
  | 2 => b.errCode.code.setWidth 32
  | 3 => (BitVec.ofBool b.timeoutEn).setWidth 32
  | 4 => b.busAddr.setWidth 32
  | 5 => b.adcT
  | 6 => b.adcP
  | 7 => b.tFine
  | 8 => b.tOut
  | 9 => b.pOut
  | n => if 0x10 ≤ n ∧ n ≤ 0x1B then zext32 (b.cal.get (n - 0x10)) else 0

/-- What a `HostWrite` to a register other than `CMD` stores while the block is not busy: the low bits of `v`, as wide as the
register; a read-only or unmapped index stores nothing (R11, R21 b). -/
def storeReg (i : BitVec 5) (v : Word) (b : Block) : Block :=
  match i.toNat with
  | 3 => { b with timeoutEn := v.getLsbD 0 }
  | 4 => { b with busAddr := v.setWidth 7 }
  | 5 => { b with adcT := v }
  | 6 => { b with adcP := v }
  | 7 => { b with tFine := v }
  | n => if 0x10 ≤ n ∧ n ≤ 0x1B then { b with cal := b.cal.set (n - 0x10) (v.setWidth 16) } else b

/-- `HostWrite(i, v)` to a register other than `CMD`: dropped while busy (R21 b, c). -/
def hostWriteReg (i : BitVec 5) (v : Word) (b : Block) : Block :=
  if b.busy then b else storeReg i v b

/-! ## Stages -/

/-- The stages of a command, by OP (R71). OP outside 1 to 7 names no command and has no stage. -/
def stageList (op : BitVec 4) : List Stage :=
  match op.toNat with
  | 1 => [.sId]
  | 2 => [.sCal]
  | 3 => [.sMeasT]
  | 4 => [.sMeasP]
  | 5 => [.sMeasT, .sMeasP, .sCal, .sCompT, .sCompP]
  | 6 => [.sCompT]
  | 7 => [.sCompP]
  | _ => []

/-- `stage(OP, STAGE)` (R71). -/
def currentStage (b : Block) : Option Stage := (stageList b.op)[b.stage.toNat]?

/-- The micro-step after a successful `U_OPEN`; a compute stage has no `U_OPEN` (R71, R73). -/
def afterOpen : Stage → Option Upc
  | .sId => some .uRdid
  | .sCal => some .uRdcal
  | .sMeasT | .sMeasP => some .uTrig
  | .sCompT | .sCompP => none

/-- The quantity of a measurement stage. -/
def Stage.quantity : Stage → Option Quantity
  | .sMeasT => some .temperature
  | .sMeasP => some .pressure
  | .sId | .sCal | .sCompT | .sCompP => none

/-- The quantity the engine is measuring, if it is in a measurement stage. -/
def currentQuantity (b : Block) : Option Quantity := (currentStage b).bind Stage.quantity

/-- UPC on entry to a stage (R72). -/
def entryUpc : Stage → Upc
  | .sId | .sCal | .sMeasT | .sMeasP => .uOpen
  | .sCompT => .uCompT
  | .sCompP => .uCompP

/-- PHASE on entry to a stage (R72). -/
def entryPhase : Stage → Phase
  | .sMeasT | .sMeasP => .idle
  | .sId | .sCal | .sCompT | .sCompP => .running

/-- Stage entry (R72). -/
def enterStage (st : Stage) (b : Block) : Block :=
  { b with upc := entryUpc st, phase := entryPhase st }

/-! ## The ends of a command -/

/-- `finish_ok()` (R75). -/
def finishOk (b : Block) : Block :=
  { b with busy := false, done := true, phase := .complete, upc := .uNone }

/-- `fail_now()` (R77). -/
def failNow (b : Block) : Block :=
  { b with busy := false, done := true, phase := .failed, upc := .uNone }

/-- `stage_done()`: the next stage of the command, or its end (R74). -/
def stageDone (b : Block) : Block :=
  match (stageList b.op)[b.stage.toNat + 1]? with
  | some st => enterStage st { b with stage := b.stage + 1 }
  | none => finishOk b

/-- `raise <Error>` (R8, R125), the block's analogue of taking an exception: record the code; a micro-step that holds the
handle goes on to `U_ABORT` (R76), one that does not (`U_OPEN`) ends the command in the same step (R77). -/
def raise (holdsHandle : Bool) (e : ErrCode) (b : Block) : Block :=
  if holdsHandle then { b with errCode := e, upc := .uAbort } else failNow { b with errCode := e }

/-- The writes of `U_ABORT`, the return from it: the handle is released and the command ends Failed (R76, R126). -/
def releaseAndFail (b : Block) : Block := failNow { b with handleOpen := false }

/-! ## Acceptance and reset -/

/-- What every accepted `CMD` write does first, legal or not (R54). -/
def latchCommand (c : Byte) (b : Block) : Block :=
  { b with cmd := c, errCode := .none, done := false, pollExhausted := false }

/-- Acceptance of the legal word `c`, whose command begins with stage `first`, by a block that is not busy (R54). -/
def acceptLegal (c : Byte) (first : Stage) (b : Block) : Block :=
  enterStage first
    { latchCommand c b with
      op := opcField c
      osrs := mapAccuracy (accField c)
      stage := 0
      busy := true
      idMatch := if opcField c = 1 then false else b.idMatch }

/-- Acceptance of an illegal word by a block that is not busy: nothing starts (R54, R78). -/
def acceptIllegal (c : Byte) (b : Block) : Block :=
  { latchCommand c b with errCode := .illegalCommand, done := true, phase := .failed }

/-- A write of the legal word `c` to `CMD`: dropped while busy (R54). -/
def issue (c : Byte) (first : Stage) (b : Block) : Block :=
  if b.busy then b else acceptLegal c first b

/-- A write of the illegal word `c` to `CMD`: dropped while busy (R54). -/
def issueIllegal (c : Byte) (b : Block) : Block :=
  if b.busy then b else acceptIllegal c b

/-- The external event `Reset`: every state element at its reset value, whatever the block was doing, and no transport event
(R140, R141). -/
def resetBlock (_ : Block) : Block := Block.reset

end Sys2Proof.Machine
end

