-- ==== Sys2Proof/Machine/MicroSteps.lean ====
section
/-! DEFINITION. The micro-steps: for each, the writes it makes from the state and the answer (spec R73 to R76, R82, R84, R93 to
R96, R102, R109). The event each issues is `eventOf` in Engine.lean. An answer that is not what the event can be answered with
counts as `Err` (R33). -/

namespace Sys2Proof.Machine

/-- `U_OPEN` in a stage whose next micro-step is `next` (R73). -/
def uOpen (next : Upc) (a : Answer) (b : Block) : Block :=
  match a with
  | .ok _ => { b with handleOpen := true, upc := next }
  | .err => raise false .transportOpenError b

/-- `U_RDID` (R82). -/
def uRdid (a : Answer) (b : Block) : Block :=
  match a with
  | .ok [v] =>
    if v = signature then { b with idMatch := true, upc := .uClose }
    else { b with idMatch := false, errCode := .identityMismatch, upc := .uClose }
  | _ => raise true .transportIOError b

/-- `U_RDCAL` (R84). -/
def uRdcal (a : Answer) (b : Block) : Block :=
  match a with
  | .ok bs =>
    if bs.length = calibLen then { b with cal := decodeCal bs, calLoaded := true, upc := .uClose }
    else raise true .transportIOError b
  | .err => raise true .transportIOError b

/-- `U_TRIG` (R93). -/
def uTrig (a : Answer) (b : Block) : Block :=
  match a with
  | .ok _ => { b with phase := .triggered, pollCnt := 0, upc := .uPoll }
  | .err => raise true .transportIOError b

/-- `U_POLL` (R94). -/
def uPoll (a : Answer) (b : Block) : Block :=
  match a with
  | .ok [s] =>
    { b with phase := .polling, pollCnt := b.pollCnt + 1, upc := if measuring s then .uDelay else .uData }
  | _ => raise true .transportIOError b

/-- `U_DELAY`, after the delay (R95). -/
def uDelay (b : Block) : Block :=
  if b.pollCnt.toNat < pollMax then { b with upc := .uPoll }
  else if b.timeoutEn then raise true .timeoutError { b with pollExhausted := true }
  else { b with pollExhausted := true, upc := .uData }

/-- `ADC_q <- v` (R96). -/
def setAdc (q : Quantity) (v : Word) (b : Block) : Block :=
  match q with
  | .temperature => { b with adcT := v }
  | .pressure => { b with adcP := v }

/-- `U_DATA` for the quantity `q` (R96). -/
def uData (q : Quantity) (a : Answer) (b : Block) : Block :=
  match a with
  | .ok [b0, b1, b2] => { setAdc q ((decodeRaw b0 b1 b2).setWidth 32) b with upc := .uClose }
  | _ => raise true .transportIOError b

/-- `U_CLOSE` (R74). -/
def uClose (b : Block) : Block := stageDone { b with handleOpen := false }

/-- `U_ABORT` (R76). -/
def uAbort (b : Block) : Block := releaseAndFail b

/-- `U_COMPT` (R102). -/
def uCompT (b : Block) : Block :=
  let r := compT (tempOperands b)
  stageDone { b with tFine := r.1, tOut := r.2, fineValid := true }

/-- `U_COMPP` (R109). -/
def uCompP (b : Block) : Block :=
  let r := compP (pressOperands b)
  stageDone { b with pOut := r.1, errCode := if r.2 then .invalidCalibration else b.errCode }

end Sys2Proof.Machine
end

