-- ==== Sys2Proof/Machine/Engine.lean ====
section
/-! DEFINITION. The engine: which event the micro-step named by UPC issues, what it writes, one step of the engine (spec R70),
and a run of them between two inputs (R21 d). -/

namespace Sys2Proof.Machine

/-- The transport event of the micro-step at UPC, computed from the current state (R70, R32); `none` where the micro-step has
no event, or where there is no micro-step. -/
def eventOf (b : Block) : Option Event :=
  match b.upc with
  | .uNone => none
  | .uOpen =>
    match (currentStage b).bind afterOpen with
    | some _ => some (.busOpen b.busAddr)
    | none => none
  | .uRdid => some (.busRead regId 1)
  | .uRdcal => some (.busRead regCalib calibLen)
  | .uTrig =>
    match currentQuantity b with
    | some q => some (.busWrite regCtrl (ctrlByte q b.osrs))
    | none => none
  | .uPoll => some (.busRead regStatus 1)
  | .uDelay => some .delay
  | .uData =>
    match currentQuantity b with
    | some q => some (.busRead (dataReg q) 3)
    | none => none
  | .uClose => some .busClose
  | .uAbort => some .busClose
  | .uCompT => none
  | .uCompP => none

/-- The block after the micro-step at UPC has heard `a` (R70); a micro-step whose event has no answer ignores it. `none` where
the spec gives no micro-step for the control position. -/
def effectOf (a : Answer) (b : Block) : Option Block :=
  match b.upc with
  | .uNone => none
  | .uOpen => ((currentStage b).bind afterOpen).map (fun next => uOpen next a b)
  | .uRdid => some (uRdid a b)
  | .uRdcal => some (uRdcal a b)
  | .uTrig => (currentQuantity b).map (fun _ => uTrig a b)
  | .uPoll => some (uPoll a b)
  | .uDelay => some (uDelay b)
  | .uData => (currentQuantity b).map (fun q => uData q a b)
  | .uClose => some (uClose b)
  | .uAbort => some (uAbort b)
  | .uCompT => some (uCompT b)
  | .uCompP => some (uCompP b)

/-- Whether the event has an answer (R32). -/
def Event.answered : Event → Bool
  | .busOpen _ | .busRead _ _ | .busWrite _ _ => true
  | .busClose | .delay => false

/-- The answer as the block takes it: a read answered with another number of bytes than it asked for counts as `Err` (R33, log
entry 3); an open or a write is answered without bytes. -/
def Event.heard (e : Event) (a : Answer) : Answer :=
  match e, a with
  | .busRead _ n, .ok bs => if bs.length = n then .ok bs else .err
  | _, .ok _ => .ok []
  | _, .err => .err

/-- The event the engine has issued and whose answer it is waiting for, if there is one (R153). -/
def State.outstanding (s : State) : Option Event :=
  if s.blk.busy then (eventOf s.blk).filter Event.answered else none

/-- The writes of the micro-step, all together (R70), or a fault where the spec gives no micro-step. -/
def commit (a : Answer) (s : State) : Host.Outcome State Fault Refusal :=
  match effectOf a s.blk with
  | some b => .next { s with blk := b }
  | none => .fault .noMicroStep

/-- One step of the engine (R70): nothing while `BUSY = 0`; else the micro-step at UPC, its event recorded with the answer it
heard. An event whose answer has not come leaves the engine waiting in the micro-step (R153). -/
def engineStep (s : State) : Host.Outcome State Fault Refusal :=
  if s.blk.busy then
    match eventOf s.blk with
    | none => commit (.ok []) s
    | some e =>
      if e.answered then
        match s.answers with
        | [] => .next s
        | a :: rest => commit (e.heard a) { s with answers := rest, trace := s.trace ++ [⟨e, some (e.heard a)⟩] }
      else commit (.ok []) { s with trace := s.trace ++ [⟨e, none⟩] }
  else .next s

/-- `n` steps of the engine, stopping at the first fault. -/
def runEngine : Nat → State → Host.Outcome State Fault Refusal
  | 0, s => .next s
  | n + 1, s =>
    match engineStep s with
    | .next s' => runEngine n s'
    | .fault r => .fault r
    | .refused r => .refused r

/-- The engine's turn between one input and the next: as many micro-steps as the turn gives it (R21 d). -/
def engineTurn (s : State) : Host.Outcome State Fault Refusal :=
  runEngine s.room { s with room := 0 }

/-- A command: the host's write of its word to `CMD` (R54, R59), then the engine's turn. -/
def command (c : Byte) (first : Stage) (s : State) : Host.Outcome State Fault Refusal :=
  engineTurn { s with blk := issue c first s.blk }

end Sys2Proof.Machine
end

