-- ==== Sys2Proof/Machine/Compensation.lean ====
section
/-! DEFINITION. `COMPT` and `COMPP` (spec 43_compensation.md). Their micro-steps are `uCompT` and `uCompP` in MicroSteps.lean,
their arithmetic is Formulas.lean. -/

namespace Sys2Proof.Machine

/-- `COMPT`: stage S_COMPT (R102). -/
def execCompt (s : State) : Host.Outcome State Fault Refusal :=
  command (encode .compt) .sCompT s

/-- `COMPP`: stage S_COMPP (R109). -/
def execCompp (s : State) : Host.Outcome State Fault Refusal :=
  command (encode .compp) .sCompP s

end Sys2Proof.Machine
end

