-- ==== Sys2Proof/Machine/Identity.lean ====
section
/-! DEFINITION. `VERIFY` and `CALIB` (spec 41_identity_calibration.md). The micro-steps of their stages are `uRdid` and `uRdcal`
in MicroSteps.lean. -/

namespace Sys2Proof.Machine

/-- `VERIFY`: stage S_ID (R81). -/
def execVerify (s : State) : Host.Outcome State Fault Refusal :=
  command (encode .verify) .sId s

/-- `CALIB`: stage S_CAL (R83). -/
def execCalib (s : State) : Host.Outcome State Fault Refusal :=
  command (encode .calib) .sCal s

end Sys2Proof.Machine
end

