-- ==== Sys2Proof/Machine/Measurement.lean ====
section
/-! DEFINITION. `RDUT` and `RDUP` (spec 42_measurement.md). The micro-steps of their stages are `uTrig`, `uPoll`, `uDelay` and
`uData` in MicroSteps.lean. -/

namespace Sys2Proof.Machine

/-- `RDUT acc`: stage S_MEAS_T (R91). -/
def execRdut (acc : Accuracy) (s : State) : Host.Outcome State Fault Refusal :=
  command (encode (.rdut acc)) .sMeasT s

/-- `RDUP acc`: stage S_MEAS_P (R92). -/
def execRdup (acc : Accuracy) (s : State) : Host.Outcome State Fault Refusal :=
  command (encode (.rdup acc)) .sMeasP s

end Sys2Proof.Machine
end

