-- ==== Sys2Proof/Machine/Orchestration.lean ====
section
/-! DEFINITION. `RDPA` (spec 44_orchestration.md): five stages, S_MEAS_T first; `stageDone` enters the others in the order of
`stageList`. -/

namespace Sys2Proof.Machine

/-- `RDPA acc` (R115). -/
def execRdpa (acc : Accuracy) (s : State) : Host.Outcome State Fault Refusal :=
  command (encode (.rdpa acc)) .sMeasT s

end Sys2Proof.Machine
end

