-- ==== Sys2Proof/Machine/Dispatch.lean ====
section
/-! DEFINITION. One arm per command: its meaning. -/

namespace Sys2Proof.Machine

def exec (i : Instr) (s : State) : Host.Outcome State Fault Refusal :=
  match i with
  | .verify => Sys2Proof.Machine.execVerify s
  | .calib => Sys2Proof.Machine.execCalib s
  | .rdut acc => Sys2Proof.Machine.execRdut acc s
  | .rdup acc => Sys2Proof.Machine.execRdup acc s
  | .rdpa acc => Sys2Proof.Machine.execRdpa acc s
  | .compt => Sys2Proof.Machine.execCompt s
  | .compp => Sys2Proof.Machine.execCompp s

end Sys2Proof.Machine
end

