-- ==== Sys2Proof/Machine/Serve.lean ====
section
/-! DEFINITION. What one input does (spec R10, R14, R21, R140), each followed by the engine's turn. -/

namespace Sys2Proof.Machine

/-- `HostRead(i)`: the value is returned; nothing else changes (R21 a). -/
def serveRead (i : BitVec 5) (s : State) : Host.Outcome State Fault Refusal :=
  engineTurn { s with replies := s.replies ++ [hostRead i s.blk] }

/-- `HostWrite(0x00, v)`: the word is `v[7:0]` (R14, R50); a legal one is its command, an illegal one is R78. -/
def serveCommand (v : Word) (s : State) : Host.Outcome State Fault Refusal :=
  match decode (v.setWidth 8) with
  | .ok i => exec i s
  | .error _ => engineTurn { s with blk := issueIllegal (v.setWidth 8) s.blk }

/-- `HostWrite(i, v)` (R21 b, c). -/
def serveWrite (i : BitVec 5) (v : Word) (s : State) : Host.Outcome State Fault Refusal :=
  if i = 0 then serveCommand v s
  else engineTurn { s with blk := hostWriteReg i v s.blk }

/-- One pass of the `WAIT` loop (R60): `HostRead(0x01)`, and again after the engine's turn if bit 0 was 1. -/
def serveWait (s : State) : Host.Outcome State Fault Refusal :=
  engineTurn
    { s with
      replies := s.replies ++ [hostRead 1 s.blk]
      inputs := if (hostRead 1 s.blk).getLsbD 0 then ⟨.wait, s.room⟩ :: s.inputs else s.inputs }

/-- `Reset` (R140, R141). -/
def serveReset (s : State) : Host.Outcome State Fault Refusal :=
  engineTurn { s with blk := resetBlock s.blk }

/-- One input. -/
def serve (x : Input) (s : State) : Host.Outcome State Fault Refusal :=
  match x with
  | .read i => serveRead i s
  | .write i v => serveWrite i v s
  | .wait => serveWait s
  | .reset => serveReset s

/-- The next input is taken from the list, and its room given to what it starts. -/
def takeTurn (t : Turn) (rest : List Turn) (s : State) : State :=
  { s with inputs := rest, room := t.room }

/-- More micro-steps than any command takes: `RDPA` takes at most 133 (R80). -/
def commandRoom : Nat := 133

/-- The state with a block that is not busy and holds no handle, everything else as it was: what acceptance of a command
needs (R54, R24 b). -/
def idleBlock (b : Block) : Block := { b with busy := false, upc := .uNone, handleOpen := false }

end Sys2Proof.Machine
end

