-- ==== Sys2Proof/Machine/Step.lean ====
section
/-! DEFINITION. One step of the machine: the next input with the engine's turn after it, or, when no input is to come, one
micro-step of the engine (spec R10, R21 d, R70). -/

namespace Sys2Proof.Machine

/-- One step. With no input to come and `BUSY = 0` nothing changes (R70). -/
def step (s : State) : Host.Outcome State Fault Refusal :=
  match s.inputs with
  | [] => engineStep s
  | t :: rest => serve t.input (takeTurn t rest s)

/-- `s` with a write of the word `w` to `CMD` as its next input, with room for the whole command. A busy block would drop the
write (R54), so the block is made idle. -/
def State.withFetchWord (s : State) (nbits w : Nat) : State :=
  { s with
    blk := idleBlock s.blk
    inputs := ⟨.write 0 (BitVec.ofNat 32 (w % 2 ^ nbits)), commandRoom⟩ :: s.inputs }

end Sys2Proof.Machine
end

