-- ==== Sys2Proof/Machine/HostProgram.lean ====
section
/-! DEFINITION. The host's assembler notation (spec 30_encoding.md R59, R60): register names, the commands and the
pseudo-instructions, each expanded into inputs of the machine. -/

namespace Sys2Proof.Machine

/-- The register names of R11 and R60; `cal i` is `CAL<i>`, of which `T1 T2 T3 P1..P9` are other names. -/
inductive Reg where
  | cmd
  | status
  | errcode
  | ctrl
  | busaddr
  | adcT
  | adcP
  | tFine
  | tOut
  | pOut
  | cal (i : Fin 12)
  deriving DecidableEq, Repr

/-- The host index of a register (R11). -/
def Reg.index : Reg → BitVec 5
  | .cmd => 0x00
  | .status => 0x01
  | .errcode => 0x02
  | .ctrl => 0x03
  | .busaddr => 0x04
  | .adcT => 0x05
  | .adcP => 0x06
  | .tFine => 0x07
  | .tOut => 0x08
  | .pOut => 0x09
  | .cal i => BitVec.ofNat 5 (0x10 + i.val)

/-- The data of `SET reg, v`: a coefficient is written as its 16-bit pattern (R60). R60 gives a negative `v` a pattern for a signed
coefficient only; DESIGN CHOICE (log entry 13): a negative `v` for any other register (T1, P1, CTRL, BUSADDR, ADC_T, ADC_P, T_FINE)
is written as its two's-complement pattern too, of which the register keeps the low bits. -/
def Reg.pattern (r : Reg) (v : Int) : Word :=
  match r with
  | .cal _ => zext32 (BitVec.ofInt 16 v)
  | .cmd | .status | .errcode | .ctrl | .busaddr | .adcT | .adcP | .tFine | .tOut | .pOut => BitVec.ofInt 32 v

/-- A line of a host program (R59, R60). -/
inductive HostOp where
  | cmd (i : Instr)
  | set (r : Reg) (v : Int)
  | get (r : Reg)
  | wait
  | setCal (vs : Vector Int 12)
  | verifySensorID (addr : Int)
  | readCoefficients (addr : Int)
  | readUncompensatedTemperature (addr : Int) (acc : Accuracy)
  | readUncompensatedPressure (addr : Int) (acc : Accuracy)
  | readPressurePa (addr : Int) (acc : Accuracy)
  deriving DecidableEq, Repr

/-- `SET reg, v` (R60). -/
def setInput (r : Reg) (v : Int) : Input := .write r.index (r.pattern v)

/-- `GET reg` (R60). -/
def getInput (r : Reg) : Input := .read r.index

/-- A command is the write of its word to `CMD` (R59). -/
def cmdInput (i : Instr) : Input := .write Reg.cmd.index ((encode i).setWidth 32)

/-- The host accesses a line stands for (R59, R60). The five API names end with the reads of their result registers. -/
def HostOp.expand : HostOp → List Input
  | .cmd i => [cmdInput i]
  | .set r v => [setInput r v]
  | .get r => [getInput r]
  | .wait => [.wait]
  | .setCal vs => (List.finRange 12).map (fun i => setInput (.cal i) vs[i])
  | .verifySensorID a => [setInput .busaddr a, cmdInput .verify, .wait, getInput .status]
  | .readCoefficients a => [setInput .busaddr a, cmdInput .calib, .wait, getInput .errcode]
  | .readUncompensatedTemperature a acc =>
    [setInput .busaddr a, cmdInput (.rdut acc), .wait, getInput .adcT, getInput .errcode]
  | .readUncompensatedPressure a acc =>
    [setInput .busaddr a, cmdInput (.rdup acc), .wait, getInput .adcP, getInput .errcode]
  | .readPressurePa a acc =>
    [setInput .busaddr a, cmdInput (.rdpa acc), .wait, getInput .pOut, getInput .errcode]

/-- A host program as the turns of a run: `room` micro-steps of the engine after every access. -/
def assemble (room : Nat) (p : List HostOp) : List Turn :=
  (p.flatMap HostOp.expand).map (fun x => ⟨x, room⟩)

end Sys2Proof.Machine
end

