-- ==== Sys2Proof/Safety.lean ====
section
/-! DEFINITION. The terms claims are made in: the invariant of the block (spec R24 and what makes it inductive), the balance of
the transport handle (R42), the accesses the block may issue (R37), runs of several steps, the bounds of a command (R80), the
codes it may end with (R121), and the answers and exchanges of a poll loop (R94, R95, R99). -/

namespace Sys2Proof.Machine

/-! ## The invariant -/

/-- The control positions at which the block holds the handle (R24 c). -/
def handlePositions : List Upc :=
  [.uRdid, .uRdcal, .uTrig, .uPoll, .uDelay, .uData, .uClose, .uAbort]

/-- The micro-steps of a stage (R71). -/
def Stage.microSteps : Stage → List Upc
  | .sId => [.uOpen, .uRdid, .uClose]
  | .sCal => [.uOpen, .uRdcal, .uClose]
  | .sMeasT | .sMeasP => [.uOpen, .uTrig, .uPoll, .uDelay, .uData, .uClose]
  | .sCompT => [.uCompT]
  | .sCompP => [.uCompP]

/-- Whether a stage uses the bus (R71). -/
def Stage.usesBus : Stage → Bool
  | .sId | .sCal | .sMeasT | .sMeasP => true
  | .sCompT | .sCompP => false

/-- The control position is one of the current stage's micro-steps, or the release after a failure of a bus stage (R71, R76). -/
def positioned (b : Block) : Bool :=
  match currentStage b with
  | some st => decide (b.upc ∈ st.microSteps) || (st.usesBus && decide (b.upc = .uAbort))
  | none => false

/-- The invariant of the block: R24 (a) to (h), item (i) being true of the types, and below it the facts that R24 rests on. -/
structure Inv (b : Block) : Prop where
  /-- R24 (a) -/
  idle_iff : b.busy = false ↔ b.upc = .uNone
  /-- R24 (b) -/
  idle_no_handle : b.busy = false → b.handleOpen = false
  /-- R24 (c) -/
  handle_iff : b.handleOpen = true ↔ b.upc ∈ handlePositions
  /-- R24 (d) -/
  compute_no_handle : b.upc = .uCompT ∨ b.upc = .uCompP → b.handleOpen = false
  /-- R24 (e) -/
  poll_bound : b.pollCnt.toNat ≤ 30
  /-- R24 (f) -/
  busy_ranges : b.busy = true → (1 ≤ b.op.toNat ∧ b.op.toNat ≤ 7) ∧ (1 ≤ b.osrs.toNat ∧ b.osrs.toNat ≤ 5)
  /-- R24 (g) -/
  done_idle : b.done = true → b.busy = false
  /-- R24 (h), codes 1, 2 and 5 -/
  failed_code : (b.errCode = .transportOpenError ∨ b.errCode = .transportIOError ∨ b.errCode = .timeoutError) →
    b.busy = false → b.phase = .failed
  /-- R24 (h), code 6 -/
  illegal_code : b.errCode = .illegalCommand → b.phase = .failed
  /-- a busy block is at a micro-step of its stage (R71) -/
  at_stage : b.busy = true → positioned b = true
  /-- a busy block runs the command in `CMD`, which is legal (R19, R54) -/
  latched : b.busy = true →
    (decode b.cmd).toOption.isSome = true ∧ b.op = opcField b.cmd ∧ b.osrs = mapAccuracy (accField b.cmd)
  /-- U_POLL is entered with POLL_CNT at most 29 (R94) -/
  poll_entry : b.upc = .uPoll → b.pollCnt.toNat ≤ 29
  /-- only a read or write answered Err, or a timeout, leads to U_ABORT (R76) -/
  abort_code : b.upc = .uAbort → b.errCode = .transportIOError ∨ b.errCode = .timeoutError
  /-- no failure is recorded while the command goes on (R125) -/
  running_code : b.busy = true → b.upc ≠ .uAbort → b.errCode.isFailure = false

/-! ## The handle -/

/-- The exchange is a `BusOpen` answered Ok. -/
def Exchange.opens (x : Exchange) : Bool :=
  match x.event, x.answer with
  | .busOpen _, some (.ok _) => true
  | _, _ => false

/-- The exchange is a `BusClose`. -/
def Exchange.closes (x : Exchange) : Bool := decide (x.event = .busClose)

/-- Every handle obtained has been released, but for the one the block holds (R42). -/
def handlesBalanced (s : State) : Prop :=
  s.trace.countP Exchange.opens = s.trace.countP Exchange.closes + (if s.blk.handleOpen then 1 else 0)

/-! ## The accesses -/

/-- The events a block with bus address `addr` may issue: the access shapes of R37, `BusOpen(BUSADDR)`, `BusClose` and
`Delay` (R32); a control byte is one of the ten of R55. -/
def allowedEvent (addr : BitVec 7) : Event → Bool
  | .busOpen a => decide (a = addr)
  | .busRead r n =>
    decide ((r, n) ∈ ([(0xD0, 1), (0xF3, 1), (0xF7, 3), (0xFA, 3), (0x88, 24)] : List (Byte × Nat)))
  | .busWrite r v =>
    decide (r = 0xF4) && decide (v ∈ ([0x21, 0x41, 0x61, 0x81, 0xA1, 0x05, 0x09, 0x0D, 0x11, 0x15] : List Byte))
  | .busClose => true
  | .delay => true

/-! ## Runs -/

/-- `n` steps of the machine, stopping at the first fault or refusal. -/
def runSteps : Nat → State → Host.Outcome State Fault Refusal
  | 0, s => .next s
  | n + 1, s =>
    match step s with
    | .next t => runSteps n t
    | .fault r => .fault r
    | .refused r => .refused r

/-! ## Bounds and codes -/

/-- The most micro-steps a command takes (R80). -/
def stepBound : Instr → Nat
  | .verify | .calib => 3
  | .rdut _ | .rdup _ => 64
  | .rdpa _ => 133
  | .compt | .compp => 1

/-- The most answered events a command issues: two for VERIFY and CALIB; open, trigger, thirty status reads and the data read
for a measurement (R99). -/
def answerBound : Instr → Nat
  | .verify | .calib => 2
  | .rdut _ | .rdup _ => 33
  | .rdpa _ => 68
  | .compt | .compp => 0

/-- The codes a command can end with (R121). -/
def endCodes (timeoutEn : Bool) : Instr → List ErrCode
  | .verify => [.none, .transportOpenError, .transportIOError, .identityMismatch]
  | .calib => [.none, .transportOpenError, .transportIOError]
  | .rdut _ | .rdup _ =>
    [.none, .transportOpenError, .transportIOError] ++ (if timeoutEn then [.timeoutError] else [])
  | .rdpa _ =>
    [.none, .transportOpenError, .transportIOError, .invalidCalibration] ++ (if timeoutEn then [.timeoutError] else [])
  | .compt => [.none]
  | .compp => [.none, .invalidCalibration]

/-! ## Answers and exchanges -/

/-- The answer fails a read of `n` bytes: `Err`, or another number of bytes (R33). -/
def failsRead (n : Nat) : Answer → Bool
  | .err => true
  | .ok bs => decide (bs.length ≠ n)

/-- The command that measures one quantity (R91, R92). -/
def measureCommand : Quantity → Accuracy → Instr
  | .temperature, acc => .rdut acc
  | .pressure, acc => .rdup acc

/-- What the transport answers to the status reads of one measurement: bytes with the measuring flag set, then, unless the
budget is used up, one with it clear. -/
structure PollScript where
  busyBytes : List Byte
  clearByte : Option Byte
  deriving DecidableEq, Repr

/-- The script is that of a loop that ends in the data read: the first clear byte is among the first thirty, or all thirty are
busy (R99). -/
def PollScript.ends (p : PollScript) : Prop :=
  (∀ v ∈ p.busyBytes, measuring v = true) ∧
    match p.clearByte with
    | some v => measuring v = false ∧ p.busyBytes.length ≤ 29
    | none => p.busyBytes.length = 30

/-- The answers of the script. -/
def PollScript.answers (p : PollScript) : List Answer :=
  p.busyBytes.map (fun v => .ok [v]) ++ (p.clearByte.toList.map (fun v => .ok [v]))

/-- A busy status read and the delay after it. -/
def busyExchanges (v : Byte) : List Exchange := [⟨.busRead 0xF3 1, some (.ok [v])⟩, ⟨.delay, none⟩]

/-- The exchanges of the script. -/
def PollScript.exchanges (p : PollScript) : List Exchange :=
  p.busyBytes.flatMap busyExchanges ++ p.clearByte.toList.map (fun v => ⟨.busRead 0xF3 1, some (.ok [v])⟩)

/-- The status reads of the script. -/
def PollScript.reads (p : PollScript) : Nat := p.busyBytes.length + p.clearByte.toList.length

/-- The micro-steps of the whole measurement stage: open, trigger, polls and delays, data, close (R80, R99). -/
def PollScript.stageSteps (p : PollScript) : Nat := 2 * p.busyBytes.length + p.clearByte.toList.length + 4

/-- The answers of a whole successful measurement stage whose data read gives `b0 b1 b2`. -/
def measureAnswers (p : PollScript) (b0 b1 b2 : Byte) : List Answer :=
  [.ok [], .ok []] ++ p.answers ++ [.ok [b0, b1, b2]]

/-- The exchanges of a whole successful measurement stage. -/
def measureExchanges (addr : BitVec 7) (q : Quantity) (osrs : BitVec 3) (p : PollScript) (b0 b1 b2 : Byte) :
    List Exchange :=
  [⟨.busOpen addr, some (.ok [])⟩, ⟨.busWrite 0xF4 (ctrlByte q osrs), some (.ok [])⟩] ++ p.exchanges ++
    [⟨.busRead (dataReg q) 3, some (.ok [b0, b1, b2])⟩, ⟨.busClose, none⟩]

end Sys2Proof.Machine
end

