-- ==== Sys2Proof/Certificates/Slice0/Obligations.lean ====
section
/-! DEFINITION. The statements for the provers. Each docstring names the rule or section of spec/ it formalises. In a statement
about a command, `s.room` is the number of micro-steps the engine is given before the next input (log entry 1), and `s.answers`
lists the transport's answers to come (log entry 2), so a premise on them says that the run is long enough and is answered. -/

open Sys2Proof Sys2Proof.Machine

/-! ## Encoding -/

/-- Words written out from the encodings of spec/opcode_table.json stand for their commands (R51). -/
def Obligations.DecodeReadsTheTableWords : Prop :=
  decode 0b00010000 = .ok .verify ∧ decode 0b00100000 = .ok .calib ∧ decode 0b00110011 = .ok (.rdut .high) ∧
    decode 0b01000000 = .ok (.rdup .ultraLow) ∧ decode 0b01010010 = .ok (.rdpa .standard) ∧
    decode 0b01100000 = .ok .compt ∧ decode 0b01110000 = .ok .compp

/-- R53: which words are legal, how many are not, by kind, and what an illegal word written to an idle block does: it starts
nothing and is reported as IllegalCommand. The all-zero word is one. -/
def Obligations.LegalWordsAreExactlyThoseOfTheOpcodeMap : Prop :=
  (∀ c : Byte, (∃ i, decode c = .ok i) ↔
    ((opcField c ∈ ([1, 2, 6, 7] : List (BitVec 4)) ∧ operandField c = 0) ∨
      (opcField c ∈ ([3, 4, 5] : List (BitVec 4)) ∧ c.getLsbD 3 = false))) ∧
  ((List.range 256).countP fun n => (decode (BitVec.ofNat 8 n)).toOption.isSome) = 28 ∧
  ((List.range 256).countP fun n => decide ((decode (BitVec.ofNat 8 n)) = .error .reservedOpcode)) = 144 ∧
  ((List.range 256).countP fun n => decide ((decode (BitVec.ofNat 8 n)) = .error .operandNotZero)) = 60 ∧
  ((List.range 256).countP fun n => decide ((decode (BitVec.ofNat 8 n)) = .error .bitThreeSet)) = 24 ∧
  (∃ r, decode 0x00 = .error r) ∧
  ∀ (s : State) (c : Byte) (n : Nat) (rest : List Turn), s.blk.busy = false → (∀ i, decode c ≠ .ok i) →
    s.inputs = ⟨.write 0 (c.setWidth 32), n⟩ :: rest →
    ∃ t, step s = .next t ∧ t.blk.busy = false ∧ t.trace = s.trace ∧ t.blk.errCode = .illegalCommand

/-- Decode and encode agree both ways: a well-formed command is read back from its word, and a legal word is the word of the
well-formed command it stands for (30_encoding.md sections 1 and 2). -/
def Obligations.DecodeAndEncodeAgree : Prop :=
  (∀ i : Instr, i.wf = true → decode (encode i) = .ok i) ∧
    ∀ (c : Byte) (i : Instr), decode c = .ok i → i.wf = true ∧ encode i = c

/-! ## The step, the host's accesses and reset -/

/-- When the next input is a write of `CMD` whose low byte stands for `i`, the step is `i`'s meaning, on the state with that
input taken and its room given (10_state.md R14; 30_encoding.md R54, R59). -/
def Obligations.StepRunsTheDecodedCommand : Prop :=
  ∀ (s : State) (v : Word) (n : Nat) (rest : List Turn) (i : Instr),
    s.inputs = ⟨.write 0 v, n⟩ :: rest → decode (v.setWidth 8) = .ok i →
      step s = exec i { s with inputs := rest, room := n }

/-- R54: what a write of `CMD` does, before any micro-step (the turn has no room): dropped while busy; else the word is stored
and ERRCODE, DONE and POLL_EXHAUSTED are cleared; an illegal word then takes the writes of R78, a legal one latches OP, OSRS and
STAGE, sets BUSY, clears ID_MATCH for VERIFY, and enters the first stage (R72). -/
def Obligations.CommandWriteIsAcceptedOnlyWhenIdle : Prop :=
  ∀ (s : State) (v : Word) (rest : List Turn), s.inputs = ⟨.write 0 v, 0⟩ :: rest →
    (s.blk.busy = true → step s = .next { s with inputs := rest, room := 0 }) ∧
    (s.blk.busy = false → (∀ i, decode (v.setWidth 8) ≠ .ok i) →
      step s = .next { s with
        blk := { s.blk with
          cmd := v.setWidth 8, errCode := .illegalCommand, done := true, pollExhausted := false, phase := .failed }
        inputs := rest
        room := 0 }) ∧
    (s.blk.busy = false → ∀ i, decode (v.setWidth 8) = .ok i →
      step s = .next { s with
        blk := { s.blk with
          cmd := v.setWidth 8
          errCode := .none
          done := false
          pollExhausted := false
          op := (v.setWidth 8).extractLsb' 4 4
          osrs := mapAccuracy (v.extractLsb' 0 3)
          stage := 0
          busy := true
          idMatch := match i with
            | .verify => false
            | .calib | .rdut _ | .rdup _ | .rdpa _ | .compt | .compp => s.blk.idMatch
          upc := match i with
            | .verify | .calib | .rdut _ | .rdup _ | .rdpa _ => .uOpen
            | .compt => .uCompT
            | .compp => .uCompP
          phase := match i with
            | .rdut _ | .rdup _ | .rdpa _ => .idle
            | .verify | .calib | .compt | .compp => .running }
        inputs := rest
        room := 0 })

/-- R78: an illegal word written to an idle block starts nothing, however long the engine then has: no micro-step, no transport
event, and only CMD, ERRCODE, DONE, POLL_EXHAUSTED and PHASE are written; the host then reads STATUS 0x406 and ERRCODE 6 when
the informational flags are 0. -/
def Obligations.IllegalWordStartsNothing : Prop :=
  ∀ (s : State) (v : Word) (n : Nat) (rest : List Turn) (r : Reject), s.inputs = ⟨.write 0 v, n⟩ :: rest →
    s.blk.busy = false → decode (v.setWidth 8) = .error r →
    let b : Block := { s.blk with
      cmd := v.setWidth 8, errCode := .illegalCommand, done := true, pollExhausted := false, phase := .failed }
    step s = .next { s with blk := b, inputs := rest, room := 0 } ∧
      (s.blk.calLoaded = false → s.blk.fineValid = false → s.blk.idMatch = false → s.blk.handleOpen = false →
        hostRead 1 b = 0x406 ∧ hostRead 2 b = 6)

/-- A host write to any index while BUSY = 1 is dropped: the machine goes on exactly as it does after a turn in which nothing was
written (10_state.md R21 c; 40_sequencer.md R70; 70_reset_and_hazards.md R145). -/
def Obligations.BusyBlockDropsEveryHostWrite : Prop :=
  ∀ (s : State) (i : BitVec 5) (v : Word) (n : Nat) (rest : List Turn), s.blk.busy = true →
    s.inputs = ⟨.write i v, n⟩ :: rest →
      step s = runEngine n { s with inputs := rest, room := 0 }

/-- What `HostRead` returns at every index, and that a read changes nothing else, busy or not (10_state.md R11, R21 a). -/
def Obligations.HostReadReturnsTheRegister : Prop :=
  (∀ (s : State) (i : BitVec 5) (rest : List Turn), s.inputs = ⟨.read i, 0⟩ :: rest →
    step s = .next { s with inputs := rest, room := 0, replies := s.replies ++ [hostRead i s.blk] }) ∧
  ∀ b : Block,
    hostRead 0x00 b = b.cmd.setWidth 32 ∧ hostRead 0x01 b = b.status.setWidth 32 ∧
    hostRead 0x02 b = b.errCode.code.setWidth 32 ∧ hostRead 0x03 b = (if b.timeoutEn then 1 else 0) ∧
    hostRead 0x04 b = b.busAddr.setWidth 32 ∧ hostRead 0x05 b = b.adcT ∧ hostRead 0x06 b = b.adcP ∧
    hostRead 0x07 b = b.tFine ∧ hostRead 0x08 b = b.tOut ∧ hostRead 0x09 b = b.pOut ∧
    [0x10, 0x11, 0x12, 0x13, 0x14, 0x15, 0x16, 0x17, 0x18, 0x19, 0x1A, 0x1B].map (fun i => hostRead i b) =
      [b.cal.t1, b.cal.t2, b.cal.t3, b.cal.p1, b.cal.p2, b.cal.p3, b.cal.p4, b.cal.p5, b.cal.p6, b.cal.p7, b.cal.p8,
        b.cal.p9].map (fun c => c.setWidth 32) ∧
    ∀ i ∈ [0x0A, 0x0B, 0x0C, 0x0D, 0x0E, 0x0F, 0x1C, 0x1D, 0x1E, 0x1F], hostRead i b = 0

/-- What `HostWrite` to an index other than 0 stores in an idle block: the low bits of the data in a writable register, nothing
at a read-only or unmapped index, and nothing else changes (10_state.md R11, R12, R21 b). -/
def Obligations.HostWriteStoresTheLowBits : Prop :=
  ∀ (s : State) (i : BitVec 5) (v : Word) (rest : List Turn), s.blk.busy = false → i ≠ 0 →
    s.inputs = ⟨.write i v, 0⟩ :: rest →
    step s = .next { s with
      inputs := rest
      room := 0
      blk := { s.blk with
        timeoutEn := if i = 0x03 then v.getLsbD 0 else s.blk.timeoutEn
        busAddr := if i = 0x04 then v.extractLsb' 0 7 else s.blk.busAddr
        adcT := if i = 0x05 then v else s.blk.adcT
        adcP := if i = 0x06 then v else s.blk.adcP
        tFine := if i = 0x07 then v else s.blk.tFine
        cal := {
          t1 := if i = 0x10 then v.extractLsb' 0 16 else s.blk.cal.t1
          t2 := if i = 0x11 then v.extractLsb' 0 16 else s.blk.cal.t2
          t3 := if i = 0x12 then v.extractLsb' 0 16 else s.blk.cal.t3
          p1 := if i = 0x13 then v.extractLsb' 0 16 else s.blk.cal.p1
          p2 := if i = 0x14 then v.extractLsb' 0 16 else s.blk.cal.p2
          p3 := if i = 0x15 then v.extractLsb' 0 16 else s.blk.cal.p3
          p4 := if i = 0x16 then v.extractLsb' 0 16 else s.blk.cal.p4
          p5 := if i = 0x17 then v.extractLsb' 0 16 else s.blk.cal.p5
          p6 := if i = 0x18 then v.extractLsb' 0 16 else s.blk.cal.p6
          p7 := if i = 0x19 then v.extractLsb' 0 16 else s.blk.cal.p7
          p8 := if i = 0x1A then v.extractLsb' 0 16 else s.blk.cal.p8
          p9 := if i = 0x1B then v.extractLsb' 0 16 else s.blk.cal.p9 } } }

/-- Every bit of STATUS, the PHASE and ERRCODE numbers, and ERR as a function of ERRCODE (10_state.md R15, R16). -/
def Obligations.StatusBitsAndCodes : Prop :=
  (∀ b : Block,
    b.status.getLsbD 0 = b.busy ∧ b.status.getLsbD 1 = b.done ∧
    (b.status.getLsbD 2 = true ↔ b.errCode.code.toNat ∈ [1, 2, 5, 6]) ∧
    b.status.getLsbD 3 = b.calLoaded ∧ b.status.getLsbD 4 = b.fineValid ∧ b.status.getLsbD 5 = b.idMatch ∧
    b.status.getLsbD 6 = b.pollExhausted ∧ b.status.getLsbD 7 = b.handleOpen ∧
    b.status.extractLsb' 8 3 = b.phase.code) ∧
  ([Phase.idle, .triggered, .polling, .complete, .failed, .running].map Phase.code = [0, 1, 2, 3, 4, 5]) ∧
  ([ErrCode.none, .transportOpenError, .transportIOError, .identityMismatch, .invalidCalibration, .timeoutError,
    .illegalCommand].map ErrCode.code = [0, 1, 2, 3, 4, 5, 6])

/-- R23: every state element after reset; and a block at rest, with no input to come, stays as it is. -/
def Obligations.ResetPutsEveryElementAtItsValue : Prop :=
  State.reset.blk =
    { cmd := 0x00, busy := false, done := false, calLoaded := false, fineValid := false, idMatch := false,
      pollExhausted := false, handleOpen := false, phase := .idle, errCode := .none, timeoutEn := false, busAddr := 0x00,
      adcT := 0, adcP := 0, tFine := 0, tOut := 0, pOut := 0,
      cal := ⟨0x0000, 0x0000, 0x0000, 0x0000, 0x0000, 0x0000, 0x0000, 0x0000, 0x0000, 0x0000, 0x0000, 0x0000⟩,
      op := 0, osrs := 0, stage := 0, upc := .uNone, pollCnt := 0 } ∧
  step State.reset = .next State.reset

/-- `Reset` in any state, busy or not: every state element of the block at its reset value at once, no transport event, and the
engine does nothing in the turn that follows (70_reset_and_hazards.md section 1, R140, R141). That no answer is taken, and that the
answers, replies, trace and later inputs stay, is the model's choice (log entry 12). -/
def Obligations.ResetWorksFromEveryState : Prop :=
  ∀ (s : State) (n : Nat) (rest : List Turn), s.inputs = ⟨.reset, n⟩ :: rest →
    step s = .next { s with blk := Block.reset, inputs := rest, room := 0 }

/-- Every line of a host program (30_encoding.md R59, R60). A command line is the write that runs the command. `SET` of a register
of an idle block stores the low bits of the value, as wide as the register (of a coefficient: its 16-bit pattern), or nothing in a
read-only register; of a busy block it is dropped. R60 gives a negative value a pattern for a signed coefficient only; that another
register takes the low bits of its two's-complement pattern is the model's choice (log entry 13). R60 does not list CMD for `SET`;
that it is the plain write is the model's choice (log entry 8). `GET`
gives the register. `SETCAL` writes the twelve coefficients. Each API line sets BUSADDR, runs its command and waits; that it then
reads its result registers by `GET`, and that `WAIT` is one input which stays the next one while BUSY is 1, is the model's choice
(log entry 8). -/
def Obligations.HostProgramLinesExpandToAccesses : Prop :=
  (∀ (s : State) (i : Instr) (n : Nat) (p : List HostOp), i.wf = true → s.inputs = assemble n (.cmd i :: p) →
    step s = exec i { s with inputs := assemble n p, room := n }) ∧
  (∀ (s : State) (r : Reg) (v : Int) (n : Nat) (p : List HostOp), r ≠ .cmd → s.inputs = assemble n (.set r v :: p) →
    (s.blk.busy = false →
      let coef (k : Fin 12) (old : Half) : Half := if r = .cal k then BitVec.ofInt 16 v else old
      step s = .next { s with
        inputs := assemble n p
        room := 0
        blk := { s.blk with
          timeoutEn := if r = .ctrl then decide (v % 2 = 1) else s.blk.timeoutEn
          busAddr := if r = .busaddr then BitVec.ofInt 7 v else s.blk.busAddr
          adcT := if r = .adcT then BitVec.ofInt 32 v else s.blk.adcT
          adcP := if r = .adcP then BitVec.ofInt 32 v else s.blk.adcP
          tFine := if r = .tFine then BitVec.ofInt 32 v else s.blk.tFine
          cal := {
            t1 := coef 0 s.blk.cal.t1
            t2 := coef 1 s.blk.cal.t2
            t3 := coef 2 s.blk.cal.t3
            p1 := coef 3 s.blk.cal.p1
            p2 := coef 4 s.blk.cal.p2
            p3 := coef 5 s.blk.cal.p3
            p4 := coef 6 s.blk.cal.p4
            p5 := coef 7 s.blk.cal.p5
            p6 := coef 8 s.blk.cal.p6
            p7 := coef 9 s.blk.cal.p7
            p8 := coef 10 s.blk.cal.p8
            p9 := coef 11 s.blk.cal.p9 } } }) ∧
    (s.blk.busy = true → step s = runEngine n { s with inputs := assemble n p, room := 0 })) ∧
  (∀ (v : Int) (n : Nat) (p : List HostOp),
    assemble n (.set .cmd v :: p) = ⟨.write 0x00 (BitVec.ofInt 32 v), n⟩ :: assemble n p) ∧
  (∀ (s : State) (r : Reg) (n : Nat) (p : List HostOp), s.inputs = assemble n (.get r :: p) →
    let c := s.blk.cal
    step s = runEngine n { s with
      inputs := assemble n p
      room := 0
      replies := s.replies ++ [match r with
        | .cmd => s.blk.cmd.setWidth 32
        | .status => s.blk.status.setWidth 32
        | .errcode => s.blk.errCode.code.setWidth 32
        | .ctrl => if s.blk.timeoutEn then 1 else 0
        | .busaddr => s.blk.busAddr.setWidth 32
        | .adcT => s.blk.adcT
        | .adcP => s.blk.adcP
        | .tFine => s.blk.tFine
        | .tOut => s.blk.tOut
        | .pOut => s.blk.pOut
        | .cal k =>
          #v[c.t1, c.t2, c.t3, c.p1, c.p2, c.p3, c.p4, c.p5, c.p6, c.p7, c.p8, c.p9][k].setWidth 32] }) ∧
  (∀ (s : State) (n : Nat) (p : List HostOp), s.inputs = assemble n (.wait :: p) →
    (s.blk.busy = false → step s = .next { s with
      inputs := assemble n p, room := 0, replies := s.replies ++ [s.blk.status.setWidth 32] }) ∧
    (s.blk.busy = true → step s = runEngine n { s with
      room := 0, replies := s.replies ++ [s.blk.status.setWidth 32] })) ∧
  (∀ (s : State) (v : Vector Int 12) (n : Nat) (p : List HostOp), s.blk.busy = false →
    s.inputs = assemble n (.setCal v :: p) →
    let pattern (k : Fin 12) : Half := BitVec.ofInt 16 v[k]
    runSteps 12 s = .next { s with
      inputs := assemble n p
      room := 0
      blk := { s.blk with
        cal := ⟨pattern 0, pattern 1, pattern 2, pattern 3, pattern 4, pattern 5, pattern 6, pattern 7, pattern 8, pattern 9,
          pattern 10, pattern 11⟩ } }) ∧
  ∀ (n : Nat) (addr : Int) (acc : Accuracy) (p : List HostOp),
    assemble n (.verifySensorID addr :: p) =
      assemble n (.set .busaddr addr :: .cmd .verify :: .wait :: .get .status :: p) ∧
    assemble n (.readCoefficients addr :: p) =
      assemble n (.set .busaddr addr :: .cmd .calib :: .wait :: .get .errcode :: p) ∧
    assemble n (.readUncompensatedTemperature addr acc :: p) =
      assemble n (.set .busaddr addr :: .cmd (.rdut acc) :: .wait :: .get .adcT :: .get .errcode :: p) ∧
    assemble n (.readUncompensatedPressure addr acc :: p) =
      assemble n (.set .busaddr addr :: .cmd (.rdup acc) :: .wait :: .get .adcP :: .get .errcode :: p) ∧
    assemble n (.readPressurePa addr acc :: p) =
      assemble n (.set .busaddr addr :: .cmd (.rdpa acc) :: .wait :: .get .pOut :: .get .errcode :: p)

/-! ## The engine and its invariant -/

/-- With no input to come, an idle block does not change (40_sequencer.md R70), and a busy one whose event the transport has not
answered waits (70_reset_and_hazards.md R153). -/
def Obligations.EngineRestsWhenIdleAndWaitsForAnswers : Prop :=
  (∀ s : State, s.inputs = [] → s.blk.busy = false → step s = .next s) ∧
    ∀ (s : State) (e : Event), s.inputs = [] → s.outstanding = some e → s.answers = [] → step s = .next s

/-- The invariant holds after reset (10_state.md section 10). -/
def Obligations.ResetMeetsTheInvariant : Prop := Inv State.reset.blk

/-- Every step keeps the invariant: R24 (a) to (h) and the facts it rests on (10_state.md section 10). -/
def Obligations.EveryStepKeepsTheInvariant : Prop :=
  ∀ s t : State, Inv s.blk → step s = .next t → Inv t.blk

/-- From a state that meets the invariant the machine never stops: the one fault, a control position without a micro-step, is
not reached (10_state.md section 10; 40_sequencer.md R71). -/
def Obligations.InvariantRulesOutTheFault : Prop :=
  ∀ s : State, Inv s.blk → ∃ t, step s = .next t

/-- Every step but a reset keeps the handles balanced: each `BusOpen` answered Ok is followed by one `BusClose`, but for the
handle the block holds (20_memory.md R42; reset is excepted by 70_reset_and_hazards.md R141, R150). -/
def Obligations.EveryStepButResetKeepsHandlesBalanced : Prop :=
  ∀ s t : State, Inv s.blk → handlesBalanced s → (∀ n rest, s.inputs ≠ ⟨.reset, n⟩ :: rest) → step s = .next t →
    handlesBalanced t

/-- R44: no step accesses the sensor's reset or config register; every event it issues is one of the shapes of R37, to the block's
bus address, with one of the ten control bytes. The trace only grows. -/
def Obligations.StepsIssueOnlyTheMappedAccesses : Prop :=
  ∀ s t : State, Inv s.blk → step s = .next t →
    ∃ new, t.trace = s.trace ++ new ∧
      ∀ x ∈ new, allowedEvent s.blk.busAddr x.event = true ∧
        match x.event with
        | .busRead r n => ∀ k < n, r.toNat + k ≠ 0xE0 ∧ r.toNat + k ≠ 0xF5
        | .busWrite r _ => r ≠ 0xE0 ∧ r ≠ 0xF5
        | .busOpen _ | .busClose | .delay => True

/-- Where the turn is cut does not matter: giving a command `m + n` micro-steps at once is giving it `m` and then, from where it
stands, `n` more (40_sequencer.md R79: the big step agrees with the small steps). -/
def Obligations.CommandRunsSplitAnywhere : Prop :=
  ∀ (i : Instr) (s t : State) (m n : Nat),
    exec i { s with room := m } = .next t → exec i { s with room := m + n } = runEngine n t

/-! ## The micro-steps -/

/-- `U_OPEN` in every bus stage, answered Ok and Err (40_sequencer.md sections 2 and 3, R73, R77). That an Ok is heard without the
bytes that may stand with it in the list of answers is the model's choice (log entry 3). -/
def Obligations.OpenMicroStep : Prop :=
  ∀ (s : State) (st : Stage) (a : Answer) (rest : List Answer), s.inputs = [] → s.blk.busy = true →
    s.blk.upc = .uOpen → currentStage s.blk = some st → st.usesBus = true → s.answers = a :: rest →
    (∀ x, a = .ok x → step s = .next { s with
      answers := rest
      trace := s.trace ++ [⟨.busOpen s.blk.busAddr, some (.ok [])⟩]
      blk := { s.blk with
        handleOpen := true
        upc := match st with
          | .sId => .uRdid
          | .sCal => .uRdcal
          | .sMeasT | .sMeasP => .uTrig
          | .sCompT | .sCompP => .uNone } }) ∧
    (a = .err → step s = .next { s with
      answers := rest
      trace := s.trace ++ [⟨.busOpen s.blk.busAddr, some .err⟩]
      blk := { s.blk with
        errCode := .transportOpenError, busy := false, done := true, phase := .failed, upc := .uNone } })

/-- R74, R75: `U_CLOSE` releases the handle and advances the stage; `U_COMPT` and `U_COMPP` write their results and advance it too.
The advance enters the next stage of the command (R72 gives its UPC and PHASE), or ends the command Complete, with ERRCODE, OP,
OSRS, STAGE and POLL_CNT as they are. -/
def Obligations.CloseAndComputeMicroStepsAdvanceTheStage : Prop :=
  ∀ s : State, s.inputs = [] → s.blk.busy = true →
    let advance (b : Block) : Block :=
      match (stageList s.blk.op)[s.blk.stage.toNat + 1]? with
      | some st => { b with
        stage := s.blk.stage + 1
        upc := match st with
          | .sId | .sCal | .sMeasT | .sMeasP => .uOpen
          | .sCompT => .uCompT
          | .sCompP => .uCompP
        phase := match st with
          | .sMeasT | .sMeasP => .idle
          | .sId | .sCal | .sCompT | .sCompP => .running }
      | none => { b with busy := false, done := true, phase := .complete, upc := .uNone }
    (s.blk.upc = .uClose → step s = .next { s with
      trace := s.trace ++ [⟨.busClose, none⟩]
      blk := advance { s.blk with handleOpen := false } }) ∧
    (s.blk.upc = .uCompT →
      let r := compT (tempOperands s.blk)
      step s = .next { s with blk := advance { s.blk with tFine := r.1, tOut := r.2, fineValid := true } }) ∧
    (s.blk.upc = .uCompP →
      let r := compP (pressOperands s.blk)
      step s = .next { s with
        blk := advance { s.blk with pOut := r.1, errCode := if r.2 then .invalidCalibration else s.blk.errCode } })

/-- A micro-step that holds the handle and detects a failure (a failed read, a write answered Err, the poll budget used up with
TIMEOUT_EN = 1) writes ERRCODE and goes to `U_ABORT`, and nothing else (40_sequencer.md section 3, R76), but that the timeout also
sets POLL_EXHAUSTED (42_measurement.md section 3, R95); `U_ABORT` releases the handle and ends the command Failed (R76). A failed
read is one answered Err or with fewer bytes than asked for (20_memory.md R33), or with more, which is the model's choice (log
entry 3). -/
def Obligations.FailureWithTheHandleReleasesItAndEndsTheCommand : Prop :=
  ∀ s : State, s.inputs = [] → s.blk.busy = true →
    (∀ (r : Byte) (n : Nat) (a : Answer) (rest : List Answer), eventOf s.blk = some (.busRead r n) →
      s.answers = a :: rest → failsRead n a = true → step s = .next { s with
        answers := rest
        trace := s.trace ++ [⟨.busRead r n, some .err⟩]
        blk := { s.blk with errCode := .transportIOError, upc := .uAbort } }) ∧
    (∀ (r v : Byte) (rest : List Answer), eventOf s.blk = some (.busWrite r v) → s.answers = .err :: rest →
      step s = .next { s with
        answers := rest
        trace := s.trace ++ [⟨.busWrite r v, some .err⟩]
        blk := { s.blk with errCode := .transportIOError, upc := .uAbort } }) ∧
    (s.blk.upc = .uDelay → s.blk.pollCnt.toNat = 30 → s.blk.timeoutEn = true → step s = .next { s with
      trace := s.trace ++ [⟨.delay, none⟩]
      blk := { s.blk with pollExhausted := true, errCode := .timeoutError, upc := .uAbort } }) ∧
    (s.blk.upc = .uAbort → step s = .next { s with
      trace := s.trace ++ [⟨.busClose, none⟩]
      blk := { s.blk with
        handleOpen := false, busy := false, done := true, phase := .failed, upc := .uNone } })

/-- `U_RDID` with a byte equal to the signature, with another byte, and with a failed read: Err, or no byte (20_memory.md R33), or
more than one, which is the model's choice (log entry 3) (41_identity_calibration.md section 1, R82). -/
def Obligations.ReadIdentityMicroStep : Prop :=
  ∀ (s : State) (a : Answer) (rest : List Answer), s.inputs = [] → s.blk.busy = true → s.blk.upc = .uRdid →
    s.answers = a :: rest →
    (a = .ok [0x58] → step s = .next { s with
      answers := rest
      trace := s.trace ++ [⟨.busRead 0xD0 1, some (.ok [0x58])⟩]
      blk := { s.blk with idMatch := true, upc := .uClose } }) ∧
    (∀ v, v ≠ 0x58 → a = .ok [v] → step s = .next { s with
      answers := rest
      trace := s.trace ++ [⟨.busRead 0xD0 1, some (.ok [v])⟩]
      blk := { s.blk with idMatch := false, errCode := .identityMismatch, upc := .uClose } }) ∧
    (failsRead 1 a = true → step s = .next { s with
      answers := rest
      trace := s.trace ++ [⟨.busRead 0xD0 1, some .err⟩]
      blk := { s.blk with errCode := .transportIOError, upc := .uAbort } })

/-- `U_RDCAL` stores all twelve coefficients or, on a failed read, nothing (41_identity_calibration.md section 2, R84). A read
answered with fewer than 24 bytes is failed by 20_memory.md R33, one with more by the model's choice (log entry 3). -/
def Obligations.ReadCalibrationMicroStep : Prop :=
  ∀ (s : State) (a : Answer) (rest : List Answer), s.inputs = [] → s.blk.busy = true → s.blk.upc = .uRdcal →
    s.answers = a :: rest →
    (∀ bs : List Byte, bs.length = 24 → a = .ok bs → step s = .next { s with
      answers := rest
      trace := s.trace ++ [⟨.busRead 0x88 24, some (.ok bs)⟩]
      blk := { s.blk with cal := decodeCal bs, calLoaded := true, upc := .uClose } }) ∧
    (failsRead 24 a = true → step s = .next { s with
      answers := rest
      trace := s.trace ++ [⟨.busRead 0x88 24, some .err⟩]
      blk := { s.blk with errCode := .transportIOError, upc := .uAbort } })

/-- `U_TRIG` in a measurement stage (42_measurement.md section 3, R93). That an Ok is heard without the bytes that may stand with it
in the list of answers is the model's choice (log entry 3). -/
def Obligations.TriggerMicroStep : Prop :=
  ∀ (s : State) (q : Quantity) (a : Answer) (rest : List Answer), s.inputs = [] → s.blk.busy = true →
    s.blk.upc = .uTrig → currentQuantity s.blk = some q → s.answers = a :: rest →
    let ctrl : Byte := match q with
      | .temperature => BitVec.ofNat 8 (0x01 ||| s.blk.osrs.toNat <<< 5)
      | .pressure => BitVec.ofNat 8 (0x01 ||| s.blk.osrs.toNat <<< 2)
    (∀ x, a = .ok x → step s = .next { s with
      answers := rest
      trace := s.trace ++ [⟨.busWrite 0xF4 ctrl, some (.ok [])⟩]
      blk := { s.blk with phase := .triggered, pollCnt := 0, upc := .uPoll } }) ∧
    (a = .err → step s = .next { s with
      answers := rest
      trace := s.trace ++ [⟨.busWrite 0xF4 ctrl, some .err⟩]
      blk := { s.blk with errCode := .transportIOError, upc := .uAbort } })

/-- `U_POLL` looks at bit 3 of the status byte and at nothing else of it, and counts the read; in a state that meets the invariant it
is entered with POLL_CNT at most 29 and leaves it between 1 and 30 (42_measurement.md section 3, R94; 30_encoding.md section 5, R56).
A read answered without a byte is failed by 20_memory.md R33, one with more than one by the model's choice (log entry 3). -/
def Obligations.PollMicroStepTestsBitThree : Prop :=
  ∀ (s : State) (a : Answer) (rest : List Answer), s.inputs = [] → s.blk.busy = true → s.blk.upc = .uPoll →
    s.answers = a :: rest →
    (∀ v : Byte, a = .ok [v] → step s = .next { s with
      answers := rest
      trace := s.trace ++ [⟨.busRead 0xF3 1, some (.ok [v])⟩]
      blk := { s.blk with
        phase := .polling
        pollCnt := s.blk.pollCnt + 1
        upc := if v.toNat / 8 % 2 = 0 then .uData else .uDelay } }) ∧
    (failsRead 1 a = true → step s = .next { s with
      answers := rest
      trace := s.trace ++ [⟨.busRead 0xF3 1, some .err⟩]
      blk := { s.blk with errCode := .transportIOError, upc := .uAbort } }) ∧
    (Inv s.blk → s.blk.pollCnt.toNat ≤ 29 ∧ (s.blk.pollCnt + 1).toNat = s.blk.pollCnt.toNat + 1 ∧
      1 ≤ (s.blk.pollCnt + 1).toNat ∧ (s.blk.pollCnt + 1).toNat ≤ 30)

/-- R95: `U_DELAY` retries while fewer than thirty status reads are done; with the budget used up it sets POLL_EXHAUSTED and goes
on to the data read, or raises TimeoutError when TIMEOUT_EN = 1. A `Delay` is issued in every case. -/
def Obligations.DelayMicroStepRetriesOrGivesUp : Prop :=
  ∀ s : State, s.inputs = [] → s.blk.busy = true → s.blk.upc = .uDelay →
    (s.blk.pollCnt.toNat < 30 → step s = .next { s with
      trace := s.trace ++ [⟨.delay, none⟩]
      blk := { s.blk with upc := .uPoll } }) ∧
    (s.blk.pollCnt.toNat = 30 → s.blk.timeoutEn = true → step s = .next { s with
      trace := s.trace ++ [⟨.delay, none⟩]
      blk := { s.blk with pollExhausted := true, errCode := .timeoutError, upc := .uAbort } }) ∧
    (s.blk.pollCnt.toNat = 30 → s.blk.timeoutEn = false → step s = .next { s with
      trace := s.trace ++ [⟨.delay, none⟩]
      blk := { s.blk with pollExhausted := true, upc := .uData } })

/-- `U_DATA` reads the three data registers of the quantity and writes its raw value, zero-extended, or, on a failed read, nothing
(42_measurement.md section 3, R96). A read answered with fewer than three bytes is failed by 20_memory.md R33, one with more by the
model's choice (log entry 3). -/
def Obligations.DataMicroStepWritesTheRawValue : Prop :=
  ∀ (s : State) (q : Quantity) (a : Answer) (rest : List Answer), s.inputs = [] → s.blk.busy = true →
    s.blk.upc = .uData → currentQuantity s.blk = some q → s.answers = a :: rest →
    let reg : Byte := match q with
      | .temperature => 0xFA
      | .pressure => 0xF7
    (∀ b0 b1 b2 : Byte, a = .ok [b0, b1, b2] → step s = .next { s with
      answers := rest
      trace := s.trace ++ [⟨.busRead reg 3, some (.ok [b0, b1, b2])⟩]
      blk := { s.blk with
        adcT := match q with
          | .temperature => (decodeRaw b0 b1 b2).setWidth 32
          | .pressure => s.blk.adcT
        adcP := match q with
          | .temperature => s.blk.adcP
          | .pressure => (decodeRaw b0 b1 b2).setWidth 32
        upc := .uClose } }) ∧
    (failsRead 3 a = true → step s = .next { s with
      answers := rest
      trace := s.trace ++ [⟨.busRead reg 3, some .err⟩]
      blk := { s.blk with errCode := .transportIOError, upc := .uAbort } })

/-! ## Wire formats -/

/-- R57: the twelve coefficients of a calibration block, low byte first, in the order T1, T2, T3, P1 to P9, whatever the bytes. -/
def Obligations.CalibrationBlockIsLittleEndian : Prop :=
  ∀ bs : List Byte, bs.length = 24 →
    [(decodeCal bs).t1, (decodeCal bs).t2, (decodeCal bs).t3, (decodeCal bs).p1, (decodeCal bs).p2, (decodeCal bs).p3,
      (decodeCal bs).p4, (decodeCal bs).p5, (decodeCal bs).p6, (decodeCal bs).p7, (decodeCal bs).p8,
      (decodeCal bs).p9].map BitVec.toNat =
    (List.range 12).map fun i => (bs.getD (2 * i) 0).toNat + 256 * (bs.getD (2 * i + 1) 0).toNat

/-- R97: `decodeRaw` as a number, its range, its independence of the low nibble of the third byte, and the rule's examples. -/
def Obligations.RawValueDecode : Prop :=
  (∀ b0 b1 b2 : Byte,
    (decodeRaw b0 b1 b2).toNat = b0.toNat * 4096 + b1.toNat * 16 + b2.toNat / 16 ∧
      (decodeRaw b0 b1 b2).toNat ≤ 0xFFFFF ∧
      ∀ b2' : Byte, b2'.toNat / 16 = b2.toNat / 16 → decodeRaw b0 b1 b2' = decodeRaw b0 b1 b2) ∧
  decodeRaw 0x7E 0xED 0x00 = 519888 ∧ decodeRaw 0x7E 0xED 0x0F = 0x7EED0 ∧ decodeRaw 0xFF 0xFF 0xFF = 0xFFFFF ∧
  decodeRaw 0x00 0x00 0x0F = 0 ∧ decodeRaw 0x80 0x00 0x00 = 524288

/-- The accuracy mapping on all eight ACC values and its range (42_measurement.md section 1; 30_encoding.md R52). -/
def Obligations.AccuracyMapsToOneToFive : Prop :=
  ∀ acc : BitVec 3,
    (acc.toNat ≤ 4 → (mapAccuracy acc).toNat = acc.toNat + 1) ∧ (5 ≤ acc.toNat → (mapAccuracy acc).toNat = 1) ∧
      1 ≤ (mapAccuracy acc).toNat ∧ (mapAccuracy acc).toNat ≤ 5

/-- R55: the byte `U_TRIG` writes to 0xF4, its fields, and the ten bytes. -/
def Obligations.TriggerByteFields : Prop :=
  (∀ (b : Block) (q : Quantity), b.upc = .uTrig → currentQuantity b = some q →
    eventOf b = some (.busWrite 0xF4 (ctrlByte q b.osrs))) ∧
  (∀ osrs : BitVec 3, ctrlByte .temperature osrs = BitVec.ofNat 8 (0x01 ||| osrs.toNat <<< 5) ∧
    ctrlByte .pressure osrs = BitVec.ofNat 8 (0x01 ||| osrs.toNat <<< 2)) ∧
  (∀ osrs : BitVec 3,
    (ctrlByte .temperature osrs).extractLsb' 5 3 = osrs ∧ (ctrlByte .temperature osrs).extractLsb' 2 3 = 0 ∧
      (ctrlByte .temperature osrs).extractLsb' 0 2 = 1 ∧
      (ctrlByte .pressure osrs).extractLsb' 5 3 = 0 ∧ (ctrlByte .pressure osrs).extractLsb' 2 3 = osrs ∧
      (ctrlByte .pressure osrs).extractLsb' 0 2 = 1) ∧
  [1, 2, 3, 4, 5].map (ctrlByte .temperature) = [0x21, 0x41, 0x61, 0x81, 0xA1] ∧
  [1, 2, 3, 4, 5].map (ctrlByte .pressure) = [0x05, 0x09, 0x0D, 0x11, 0x15]

/-! ## Identity and calibration -/

/-- `VERIFY` on every course of answers (41_identity_calibration.md section 1, R81): a byte read (ID_MATCH says whether it is 0x58,
ERRCODE 3 if not, Complete), a failed read (ERRCODE 2, the handle released, Failed), a failed open (ERRCODE 1, no `BusClose`,
Failed). The state given is the whole next state, so every register the rule does not list is unchanged. A read answered without a
byte is failed by 20_memory.md R33, one with more than one by the model's choice (log entry 3). -/
def Obligations.VerifyOnEveryCourseOfAnswers : Prop :=
  encode .verify = 0x10 ∧
  ∀ (s : State) (rest : List Answer), s.blk.busy = false → 3 ≤ s.room →
    (∀ v : Byte, s.answers = .ok [] :: .ok [v] :: rest → exec .verify s = .next { s with
      room := 0
      answers := rest
      trace := s.trace ++
        [⟨.busOpen s.blk.busAddr, some (.ok [])⟩, ⟨.busRead 0xD0 1, some (.ok [v])⟩, ⟨.busClose, none⟩]
      blk := { s.blk with
        cmd := 0x10, op := 1, osrs := 1, stage := 0, busy := false, done := true, upc := .uNone, pollExhausted := false
        handleOpen := false
        phase := .complete
        idMatch := decide (v = 0x58)
        errCode := if v = 0x58 then .none else .identityMismatch } }) ∧
    (∀ a, failsRead 1 a = true → s.answers = .ok [] :: a :: rest → exec .verify s = .next { s with
      room := 0
      answers := rest
      trace := s.trace ++
        [⟨.busOpen s.blk.busAddr, some (.ok [])⟩, ⟨.busRead 0xD0 1, some .err⟩, ⟨.busClose, none⟩]
      blk := { s.blk with
        cmd := 0x10, op := 1, osrs := 1, stage := 0, busy := false, done := true, upc := .uNone, pollExhausted := false
        handleOpen := false
        phase := .failed
        idMatch := false
        errCode := .transportIOError } }) ∧
    (s.answers = .err :: rest → exec .verify s = .next { s with
      room := 0
      answers := rest
      trace := s.trace ++ [⟨.busOpen s.blk.busAddr, some .err⟩]
      blk := { s.blk with
        cmd := 0x10, op := 1, osrs := 1, stage := 0, busy := false, done := true, upc := .uNone, pollExhausted := false
        phase := .failed
        idMatch := false
        errCode := .transportOpenError } })

/-- `VERIFY` sets ID_MATCH only if the transport answered the open Ok and the identity read with the byte 0x58: the source's "true
only on exact match", over all answers and however far the command has run (41_identity_calibration.md section 1). -/
def Obligations.VerifyMatchesOnlyTheSignature : Prop :=
  ∀ s t : State, s.blk.busy = false → exec .verify s = .next t → t.blk.idMatch = true →
    ∃ x rest, s.answers = .ok x :: .ok [0x58] :: rest

/-- `CALIB` on every course of answers (41_identity_calibration.md section 2, R83): a block read (stored whole, Complete), a failed
read and a failed open (the store and CAL_LOADED unchanged, Failed). A read answered with fewer than 24 bytes is failed by
20_memory.md R33, one with more by the model's choice (log entry 3). -/
def Obligations.CalibOnEveryCourseOfAnswers : Prop :=
  encode .calib = 0x20 ∧
  ∀ (s : State) (rest : List Answer), s.blk.busy = false → 3 ≤ s.room →
    (∀ bs : List Byte, bs.length = 24 → s.answers = .ok [] :: .ok bs :: rest → exec .calib s = .next { s with
      room := 0
      answers := rest
      trace := s.trace ++
        [⟨.busOpen s.blk.busAddr, some (.ok [])⟩, ⟨.busRead 0x88 24, some (.ok bs)⟩, ⟨.busClose, none⟩]
      blk := { s.blk with
        cmd := 0x20, op := 2, osrs := 1, stage := 0, busy := false, done := true, upc := .uNone, pollExhausted := false
        handleOpen := false
        phase := .complete
        errCode := .none
        cal := decodeCal bs
        calLoaded := true } }) ∧
    (∀ a, failsRead 24 a = true → s.answers = .ok [] :: a :: rest → exec .calib s = .next { s with
      room := 0
      answers := rest
      trace := s.trace ++
        [⟨.busOpen s.blk.busAddr, some (.ok [])⟩, ⟨.busRead 0x88 24, some .err⟩, ⟨.busClose, none⟩]
      blk := { s.blk with
        cmd := 0x20, op := 2, osrs := 1, stage := 0, busy := false, done := true, upc := .uNone, pollExhausted := false
        handleOpen := false
        phase := .failed
        errCode := .transportIOError } }) ∧
    (s.answers = .err :: rest → exec .calib s = .next { s with
      room := 0
      answers := rest
      trace := s.trace ++ [⟨.busOpen s.blk.busAddr, some .err⟩]
      blk := { s.blk with
        cmd := 0x20, op := 2, osrs := 1, stage := 0, busy := false, done := true, upc := .uNone, pollExhausted := false
        phase := .failed
        errCode := .transportOpenError } })

/-! ## Measurement -/

/-- `RDUT acc` and `RDUP acc` complete: the trigger byte, the poll loop (no delay after a clear first read, at most thirty reads)
and the data read, with the raw value in the quantity's register; with TIMEOUT_EN = 0 a used-up poll budget sets POLL_EXHAUSTED
and the data are read anyway (42_measurement.md sections 2 and 5). -/
def Obligations.MeasurementCompletesWithTheRawValue : Prop :=
  ∀ (q : Quantity) (acc : Accuracy) (p : PollScript) (b0 b1 b2 : Byte) (rest : List Answer) (s : State),
    s.blk.busy = false → p.ends → (p.clearByte = none → s.blk.timeoutEn = false) →
    s.answers = measureAnswers p b0 b1 b2 ++ rest → p.stageSteps ≤ s.room →
    exec (measureCommand q acc) s = .next { s with
      room := 0
      answers := rest
      trace := s.trace ++ measureExchanges s.blk.busAddr q (mapAccuracy (accBits acc)) p b0 b1 b2
      blk := { s.blk with
        cmd := encode (measureCommand q acc)
        op := opcode (measureCommand q acc)
        osrs := mapAccuracy (accBits acc)
        stage := 0
        busy := false
        done := true
        upc := .uNone
        handleOpen := false
        phase := .complete
        errCode := .none
        pollExhausted := p.clearByte.isNone
        pollCnt := BitVec.ofNat 5 p.reads
        adcT := match q with
          | .temperature => (decodeRaw b0 b1 b2).setWidth 32
          | .pressure => s.blk.adcT
        adcP := match q with
          | .temperature => s.blk.adcP
          | .pressure => (decodeRaw b0 b1 b2).setWidth 32 } }

/-- With TIMEOUT_EN = 1, thirty busy status reads end `RDUT` and `RDUP` with TimeoutError: POLL_EXHAUSTED set, the handle released,
Failed, and the raw value unchanged (42_measurement.md sections 3 and 5). -/
def Obligations.MeasurementTimesOut : Prop :=
  ∀ (q : Quantity) (acc : Accuracy) (busy : List Byte) (rest : List Answer) (s : State),
    s.blk.busy = false → s.blk.timeoutEn = true → busy.length = 30 → (∀ v ∈ busy, measuring v = true) →
    s.answers = [.ok [], .ok []] ++ busy.map (fun v => .ok [v]) ++ rest → 63 ≤ s.room →
    exec (measureCommand q acc) s = .next { s with
      room := 0
      answers := rest
      trace := s.trace ++
        [⟨.busOpen s.blk.busAddr, some (.ok [])⟩,
          ⟨.busWrite 0xF4 (ctrlByte q (mapAccuracy (accBits acc))), some (.ok [])⟩] ++
        busy.flatMap busyExchanges ++ [⟨.busClose, none⟩]
      blk := { s.blk with
        cmd := encode (measureCommand q acc)
        op := opcode (measureCommand q acc)
        osrs := mapAccuracy (accBits acc)
        stage := 0
        busy := false
        done := true
        upc := .uNone
        handleOpen := false
        phase := .failed
        errCode := .timeoutError
        pollExhausted := true
        pollCnt := 30 } }

/-- The transport failures of `RDUT` and `RDUP`: at the open (no `BusClose`), at the trigger, at a status read after `busy` busy
ones, at the data read. Each ends the command Failed with the handle released and the raw values unchanged (42_measurement.md
section 5; 60_exceptions.md R125). A read answered with fewer bytes than asked for is failed by 20_memory.md R33, one with more by
the model's choice (log entry 3). -/
def Obligations.MeasurementTransportFailures : Prop :=
  ∀ (q : Quantity) (acc : Accuracy) (rest : List Answer) (s : State), s.blk.busy = false → 64 ≤ s.room →
    let opened : List Exchange := [⟨.busOpen s.blk.busAddr, some (.ok [])⟩]
    let ctrl := ctrlByte q (mapAccuracy (accBits acc))
    let failed : Block := { s.blk with
      cmd := encode (measureCommand q acc)
      op := opcode (measureCommand q acc)
      osrs := mapAccuracy (accBits acc)
      stage := 0
      busy := false
      done := true
      upc := .uNone
      pollExhausted := false
      phase := .failed
      errCode := .transportIOError }
    (s.answers = .err :: rest → exec (measureCommand q acc) s = .next { s with
      room := 0
      answers := rest
      trace := s.trace ++ [⟨.busOpen s.blk.busAddr, some .err⟩]
      blk := { failed with errCode := .transportOpenError } }) ∧
    (s.answers = .ok [] :: .err :: rest → exec (measureCommand q acc) s = .next { s with
      room := 0
      answers := rest
      trace := s.trace ++ opened ++ [⟨.busWrite 0xF4 ctrl, some .err⟩, ⟨.busClose, none⟩]
      blk := { failed with handleOpen := false } }) ∧
    (∀ (busy : List Byte) (a : Answer), busy.length ≤ 29 → (∀ v ∈ busy, measuring v = true) → failsRead 1 a = true →
      s.answers = [.ok [], .ok []] ++ busy.map (fun v => .ok [v]) ++ a :: rest →
      exec (measureCommand q acc) s = .next { s with
        room := 0
        answers := rest
        trace := s.trace ++ opened ++ [⟨.busWrite 0xF4 ctrl, some (.ok [])⟩] ++ busy.flatMap busyExchanges ++
          [⟨.busRead 0xF3 1, some .err⟩, ⟨.busClose, none⟩]
        blk := { failed with handleOpen := false, pollCnt := BitVec.ofNat 5 busy.length } }) ∧
    (∀ (p : PollScript) (a : Answer), p.ends → (p.clearByte = none → s.blk.timeoutEn = false) → failsRead 3 a = true →
      s.answers = [.ok [], .ok []] ++ p.answers ++ a :: rest →
      exec (measureCommand q acc) s = .next { s with
        room := 0
        answers := rest
        trace := s.trace ++ opened ++ [⟨.busWrite 0xF4 ctrl, some (.ok [])⟩] ++ p.exchanges ++
          [⟨.busRead (dataReg q) 3, some .err⟩, ⟨.busClose, none⟩]
        blk := { failed with
          handleOpen := false, pollExhausted := p.clearByte.isNone, pollCnt := BitVec.ofNat 5 p.reads } })

/-! ## Compensation -/

/-- R7: the primitives on their integer values: the result congruent to the exact one modulo 2^32, in range. -/
def Obligations.PrimitivesWrapTheExactResult : Prop :=
  (∀ x : Int, (2 : Int) ^ 32 ∣ (wrap32 x).toInt - x ∧ (2 : Int) ^ 32 ∣ ((wrap32 x).toNat : Int) - x) ∧
  ∀ (a b : Word) (n : Nat), n ≤ 31 →
    add32 a b = wrap32 (a.toInt + b.toInt) ∧ sub32 a b = wrap32 (a.toInt - b.toInt) ∧
    mul32 a b = wrap32 (a.toInt * b.toInt) ∧ shl32 a n = wrap32 (a.toInt * 2 ^ n) ∧
    (asr32 a n).toInt = Int.floor ((a.toInt : ℚ) / 2 ^ n) ∧ asr32 (wrap32 (-1)) n = wrap32 (-1) ∧
    asr32 (wrap32 (-6076000)) 14 = wrap32 (-371) ∧
    (umul32 a b).toNat = a.toNat * b.toNat % 2 ^ 32 ∧ (ushl32 a n).toNat = a.toNat * 2 ^ n % 2 ^ 32 ∧
    (lsr32 a n).toNat = a.toNat / 2 ^ n ∧ (b ≠ 0 → (udiv32 a b).toNat = a.toNat / b.toNat)

/-- The primitives are the bit-vector operations of a 32-bit two's-complement machine (43_compensation.md R100; 00_scope.md R7). -/
def Obligations.PrimitivesAreTwosComplementOperations : Prop :=
  ∀ (a b : Word) (n : Nat), n ≤ 31 →
    add32 a b = a + b ∧ sub32 a b = a - b ∧ mul32 a b = a * b ∧ umul32 a b = a * b ∧ shl32 a n = a <<< n ∧
      ushl32 a n = a <<< n ∧ asr32 a n = a.sshiftRight n ∧ lsr32 a n = a >>> n ∧ udiv32 a b = a / b

/-- R102: `COMPT` completes in one micro-step, with no transport event, from the temperature raw value and T1 (zero-extended), T2 and
T3 (sign-extended); nothing else is written. -/
def Obligations.ComptComputesTemperature : Prop :=
  encode .compt = 0x60 ∧
  ∀ s : State, s.blk.busy = false → 1 ≤ s.room →
    let r := compT ⟨s.blk.adcT, s.blk.cal.t1.setWidth 32, s.blk.cal.t2.signExtend 32, s.blk.cal.t3.signExtend 32⟩
    exec .compt s = .next { s with
      room := 0
      blk := { s.blk with
        cmd := 0x60, op := 6, osrs := 1, stage := 0, busy := false, done := true, upc := .uNone, pollExhausted := false
        phase := .complete
        errCode := .none
        tFine := r.1
        tOut := r.2
        fineValid := true } }

/-- R109: `COMPP` completes in one micro-step, with no transport event, from the pressure raw value, T_FINE and P1 (zero-extended) to
P9 (sign-extended); ERRCODE becomes 4 exactly when the zero guard is taken; nothing else is written. -/
def Obligations.ComppComputesPressure : Prop :=
  encode .compp = 0x70 ∧
  ∀ s : State, s.blk.busy = false → 1 ≤ s.room →
    let c := s.blk.cal
    let r := compP
      { adc := s.blk.adcP
        front := ⟨s.blk.tFine, c.p1.setWidth 32, c.p2.signExtend 32, c.p3.signExtend 32, c.p4.signExtend 32,
          c.p5.signExtend 32, c.p6.signExtend 32⟩
        p7 := c.p7.signExtend 32
        p8 := c.p8.signExtend 32
        p9 := c.p9.signExtend 32 }
    exec .compp s = .next { s with
      room := 0
      blk := { s.blk with
        cmd := 0x70, op := 7, osrs := 1, stage := 0, busy := false, done := true, upc := .uNone, pollExhausted := false
        phase := .complete
        pOut := r.1
        errCode := if r.2 then .invalidCalibration else .none } }

/-- The temperature function on all words, in the operations of a 32-bit two's-complement machine, wrapping where they wrap: host-written
raw values above 0xFFFFF and extreme coefficients are not shut out (43_compensation.md sections 1 and 2, R100, R101). -/
def Obligations.TemperatureOnAllWords : Prop :=
  ∀ adc t1 t2 t3 : Word,
    let d1 := adc.sshiftRight 3 - t1 <<< 1
    let d2 := adc.sshiftRight 4 - t1
    let fine := (d1 * t2).sshiftRight 11 + ((d2 * d2).sshiftRight 12 * t3).sshiftRight 14
    compT ⟨adc, t1, t2, t3⟩ = (fine, (fine * 5 + 128).sshiftRight 8)

/-- The bodies of `PFront` and `PCorr` on all words, in the operations of a 32-bit two's-complement machine, and `compP` as the five
stages with these two bodies (43_compensation.md section 3, R104, R108). The bodies are the spec's defaults, taken from general
knowledge, and the model's choice of them is log entry 5 (PRESUMED). -/
def Obligations.PressureBodiesOnAllWords : Prop :=
  (∀ fine p1 p2 p3 p4 p5 p6 : Word,
    let v := fine.sshiftRight 1 - 64000
    let qq := v.sshiftRight 2 * v.sshiftRight 2
    let w := (p3 * qq.sshiftRight 13).sshiftRight 3 + (p2 * v).sshiftRight 1
    pFront ⟨fine, p1, p2, p3, p4, p5, p6⟩ =
      { var1 := ((32768 + w.sshiftRight 18) * p1).sshiftRight 15
        var2 := (qq.sshiftRight 11 * p6 + (v * p5) <<< 1).sshiftRight 2 + p4 <<< 16 }) ∧
  (∀ p p7 p8 p9 : Word,
    let h := p >>> 3
    let c1 := (p9 * ((h * h) >>> 13)).sshiftRight 12
    let c2 := ((p >>> 2) * p8).sshiftRight 13
    pCorr p p7 p8 p9 = p + (c1 + c2 + p7).sshiftRight 4) ∧
  ∀ x : PressInput, compP x = compPWith pFront pCorr x

/-- Where no intermediate value leaves the 32-bit range, the temperature function is the source's formula on exact integers with
floor division (43_compensation.md R100, R101); TemperatureOnAllWords gives the value on the other operands. -/
def Obligations.TemperatureIsExactWithoutOverflow : Prop :=
  ∀ (adc : Word) (t1 t2 t3 : Half), adc.toNat ≤ 0xFFFFF →
    let d1 : Int := (adc.toNat : Int) / 8 - 2 * t1.toNat
    let d2 : Int := (adc.toNat : Int) / 16 - t1.toNat
    let var1 : Int := d1 * t2.toInt / 2048
    let var2 : Int := d2 * d2 / 4096 * t3.toInt / 16384
    (-2 ^ 31 ≤ d1 * t2.toInt ∧ d1 * t2.toInt < 2 ^ 31) → d2 * d2 < 2 ^ 31 →
    (-2 ^ 31 ≤ d2 * d2 / 4096 * t3.toInt ∧ d2 * d2 / 4096 * t3.toInt < 2 ^ 31) →
      (compT ⟨adc, zext32 t1, sext32 t2, sext32 t3⟩).1.toInt = var1 + var2 ∧
      (compT ⟨adc, zext32 t1, sext32 t2, sext32 t3⟩).2.toInt = ((var1 + var2) * 5 + 128) / 256

/-- The worked examples: the source's temperature example, and the pressure example, which rests on the default bodies of `PFront`
and `PCorr` that the spec takes from general knowledge (log entry 5) (95_test_vectors.md sections 1.1 and 2.2). -/
def Obligations.WorkedExamples : Prop :=
  compT ⟨519888, 27504, 26435, wrap32 (-1000)⟩ = (128422, 2508) ∧
    compP
      { adc := 415148
        front := ⟨128422, 36477, wrap32 (-10685), 3024, 2855, 140, wrap32 (-7)⟩
        p7 := 15500
        p8 := wrap32 (-14600)
        p9 := 6000 } = (100656, false)

/-- R105: for every front end and every correction, a zero `var1` gives pressure 0 and the condition, and only a zero `var1` does;
otherwise the scaling, the division by the nonzero `var1` and the correction are evaluated in that order. -/
def Obligations.ZeroGuardHoldsForEveryBody : Prop :=
  ∀ (front : Config.PFront) (corr : Config.PCorr) (x : PressInput),
    ((front x.front).var1 = 0 → compPWith front corr x = (0, true)) ∧
    ((front x.front).var1 ≠ 0 →
      compPWith front corr x =
        (corr (divide (scale x.adc (front x.front).var2) (front x.front).var1) x.p7 x.p8 x.p9, false)) ∧
    ((compPWith front corr x).2 = true ↔ (front x.front).var1 = 0)

/-- With P1 = 0 the guard is taken whatever the rest: `COMPP` gives pressure 0 and ERRCODE 4, and completes; so it does right after
reset. It rests on the default body of `PFront` (43_compensation.md R104, R109; log entry 5). -/
def Obligations.ZeroP1GivesZeroPressure : Prop :=
  ∀ s : State, s.blk.busy = false → 1 ≤ s.room → s.blk.cal.p1 = 0 →
    ∃ t, exec .compp s = .next t ∧ t.blk.pOut = 0 ∧ t.blk.errCode = .invalidCalibration ∧ t.blk.phase = .complete ∧
      t.blk.busy = false ∧ hostRead 2 t.blk = 4 ∧ (hostRead 1 t.blk).getLsbD 2 = false

/-- R106: the scaling is the source's formula on exact integers, wrapped once. -/
def Obligations.ScaleWrapsOneExactFormula : Prop :=
  ∀ adc var2 : Word, scale adc var2 = wrap32 (3125 * (1048576 - adc.toInt - var2.toInt / 4096))

/-- The two branches of the division, as numbers, and how far they can be from `floor(2p / d)` (43_compensation.md section 3, R107).
That a divisor with its top bit set divides as an unsigned number is the spec's general knowledge (R100, G3), which the model
presumes (log entry 5). -/
def Obligations.DivisionIsFloorOfTwicePOverD : Prop :=
  ∀ p d : Word, d ≠ 0 →
    (p.toNat < 2 ^ 31 → (divide p d).toNat = 2 * p.toNat / d.toNat) ∧
    (2 ^ 31 ≤ p.toNat → (divide p d).toNat = 2 * (p.toNat / d.toNat) % 2 ^ 32) ∧
    (2 ^ 31 ≤ p.toNat → d ≠ 1 →
      (divide p d).toNat ≤ 2 * p.toNat / d.toNat ∧ 2 * p.toNat / d.toNat ≤ (divide p d).toNat + 1)

/-- R110: the results of `COMPT` depend only on ADC_T, T1, T2, T3, those of `COMPP` only on ADC_P, T_FINE and P1 to P9: two idle
blocks that agree on these give the same results, whatever else differs. -/
def Obligations.CompensationDependsOnlyOnItsOperands : Prop :=
  ∀ s s' t t' : State, s.blk.busy = false → s'.blk.busy = false → 1 ≤ s.room → 1 ≤ s'.room →
    (exec .compt s = .next t → exec .compt s' = .next t' → s.blk.adcT = s'.blk.adcT → s.blk.cal.t1 = s'.blk.cal.t1 →
      s.blk.cal.t2 = s'.blk.cal.t2 → s.blk.cal.t3 = s'.blk.cal.t3 →
        t.blk.tFine = t'.blk.tFine ∧ t.blk.tOut = t'.blk.tOut) ∧
    (exec .compp s = .next t → exec .compp s' = .next t' → s.blk.adcP = s'.blk.adcP → s.blk.tFine = s'.blk.tFine →
      { s.blk.cal with t1 := 0, t2 := 0, t3 := 0 } = { s'.blk.cal with t1 := 0, t2 := 0, t3 := 0 } →
        t.blk.pOut = t'.blk.pOut ∧ t.blk.errCode = t'.blk.errCode)

/-! ## Orchestration -/

/-- `RDPA acc` completes: temperature measurement, pressure measurement, calibration, temperature compensation, pressure
compensation, in this order, three handles, one accuracy for both measurements; the compensations use the raw values and the
calibration of this command (44_orchestration.md). -/
def Obligations.RdpaCompletesWithThePressure : Prop :=
  ∀ (acc : Accuracy) (p p' : PollScript) (b0 b1 b2 c0 c1 c2 : Byte) (bs : List Byte) (rest : List Answer) (s : State),
    s.blk.busy = false → p.ends → p'.ends → bs.length = 24 →
    (p.clearByte = none ∨ p'.clearByte = none → s.blk.timeoutEn = false) →
    s.answers = measureAnswers p b0 b1 b2 ++ measureAnswers p' c0 c1 c2 ++ [.ok [], .ok bs] ++ rest →
    p.stageSteps + p'.stageSteps + 5 ≤ s.room →
    let osrs := mapAccuracy (accBits acc)
    let read : Block := { s.blk with
      adcT := (decodeRaw b0 b1 b2).setWidth 32, adcP := (decodeRaw c0 c1 c2).setWidth 32, cal := decodeCal bs }
    let r := compT (tempOperands read)
    let w := compP (pressOperands { read with tFine := r.1 })
    exec (.rdpa acc) s = .next { s with
      room := 0
      answers := rest
      trace := s.trace ++ measureExchanges s.blk.busAddr .temperature osrs p b0 b1 b2 ++
        measureExchanges s.blk.busAddr .pressure osrs p' c0 c1 c2 ++
        [⟨.busOpen s.blk.busAddr, some (.ok [])⟩, ⟨.busRead 0x88 24, some (.ok bs)⟩, ⟨.busClose, none⟩]
      blk := { read with
        cmd := encode (.rdpa acc)
        op := 5
        osrs := osrs
        stage := 4
        busy := false
        done := true
        upc := .uNone
        handleOpen := false
        phase := .complete
        pollExhausted := p.clearByte.isNone || p'.clearByte.isNone
        pollCnt := BitVec.ofNat 5 p'.reads
        calLoaded := true
        fineValid := true
        tFine := r.1
        tOut := r.2
        pOut := w.1
        errCode := if w.2 then .invalidCalibration else .none } }

/-- A failed `RDPA`, whatever the answers, leaves the store, CAL_LOADED, FINE_VALID, T_FINE, T_OUT and P_OUT as they were; and the
pressure raw value too, unless the temperature one was taken first (44_orchestration.md R116; 60_exceptions.md R125). -/
def Obligations.FailedRdpaKeepsOlderResults : Prop :=
  ∀ (acc : Accuracy) (s t : State), s.blk.busy = false → exec (.rdpa acc) s = .next t → t.blk.busy = false →
    t.blk.errCode.isFailure = true →
    t.blk.cal = s.blk.cal ∧ t.blk.calLoaded = s.blk.calLoaded ∧ t.blk.fineValid = s.blk.fineValid ∧
      t.blk.tFine = s.blk.tFine ∧ t.blk.tOut = s.blk.tOut ∧ t.blk.pOut = s.blk.pOut ∧
      (t.blk.stage = 0 → t.blk.adcT = s.blk.adcT) ∧ (t.blk.stage.toNat ≤ 1 → t.blk.adcP = s.blk.adcP)

/-! ## Frames: what a command leaves unchanged, on every course of answers and however far it has run -/

/-- `VERIFY` and `CALIB`: neither writes a data register, BUSADDR, CTRL, FINE_VALID or POLL_CNT; `VERIFY` leaves the store and
CAL_LOADED, `CALIB` leaves ID_MATCH (41_identity_calibration.md R81, R83). -/
def Obligations.FrameOfVerifyAndCalib : Prop :=
  ∀ (s t : State) (i : Instr), s.blk.busy = false → i = .verify ∨ i = .calib → exec i s = .next t →
    t.blk.adcT = s.blk.adcT ∧ t.blk.adcP = s.blk.adcP ∧ t.blk.tFine = s.blk.tFine ∧ t.blk.tOut = s.blk.tOut ∧
      t.blk.pOut = s.blk.pOut ∧ t.blk.busAddr = s.blk.busAddr ∧ t.blk.timeoutEn = s.blk.timeoutEn ∧
      t.blk.fineValid = s.blk.fineValid ∧ t.blk.pollCnt = s.blk.pollCnt ∧ t.blk.pollExhausted = false ∧
      t.inputs = s.inputs ∧ t.replies = s.replies ∧
      (i = .verify → t.blk.cal = s.blk.cal ∧ t.blk.calLoaded = s.blk.calLoaded) ∧
      (i = .calib → t.blk.idMatch = s.blk.idMatch)

/-- `RDUT` and `RDUP`: the other quantity's raw value, the compensation registers, the store, the flags CAL_LOADED, FINE_VALID and
ID_MATCH, BUSADDR and CTRL are unchanged, and the raw value is unchanged or a 20-bit one (42_measurement.md R91, R92). -/
def Obligations.FrameOfRdutAndRdup : Prop :=
  ∀ (q : Quantity) (acc : Accuracy) (s t : State), s.blk.busy = false → exec (measureCommand q acc) s = .next t →
    t.blk.tFine = s.blk.tFine ∧ t.blk.tOut = s.blk.tOut ∧ t.blk.pOut = s.blk.pOut ∧ t.blk.cal = s.blk.cal ∧
      t.blk.busAddr = s.blk.busAddr ∧ t.blk.timeoutEn = s.blk.timeoutEn ∧ t.blk.calLoaded = s.blk.calLoaded ∧
      t.blk.fineValid = s.blk.fineValid ∧ t.blk.idMatch = s.blk.idMatch ∧ t.inputs = s.inputs ∧ t.replies = s.replies ∧
      (q = .temperature → t.blk.adcP = s.blk.adcP ∧ (t.blk.adcT = s.blk.adcT ∨ t.blk.adcT.toNat ≤ 0xFFFFF)) ∧
      (q = .pressure → t.blk.adcT = s.blk.adcT ∧ (t.blk.adcP = s.blk.adcP ∨ t.blk.adcP.toNat ≤ 0xFFFFF))

/-- `COMPT` and `COMPP`: no transport event, no answer taken; the raw values, the store and the other flags are unchanged; `COMPT`
leaves P_OUT and ERRCODE 0, `COMPP` leaves T_FINE, T_OUT and FINE_VALID (43_compensation.md R102, R109). -/
def Obligations.FrameOfComptAndCompp : Prop :=
  ∀ (s t : State) (i : Instr), s.blk.busy = false → i = .compt ∨ i = .compp → exec i s = .next t →
    t.trace = s.trace ∧ t.answers = s.answers ∧ t.inputs = s.inputs ∧ t.replies = s.replies ∧
      t.blk.adcT = s.blk.adcT ∧ t.blk.adcP = s.blk.adcP ∧ t.blk.cal = s.blk.cal ∧ t.blk.busAddr = s.blk.busAddr ∧
      t.blk.timeoutEn = s.blk.timeoutEn ∧ t.blk.calLoaded = s.blk.calLoaded ∧ t.blk.idMatch = s.blk.idMatch ∧
      t.blk.handleOpen = s.blk.handleOpen ∧ t.blk.pollCnt = s.blk.pollCnt ∧
      (i = .compt → t.blk.pOut = s.blk.pOut ∧ t.blk.errCode = .none) ∧
      (i = .compp → t.blk.tFine = s.blk.tFine ∧ t.blk.tOut = s.blk.tOut ∧ t.blk.fineValid = s.blk.fineValid)

/-- `RDPA` writes neither ID_MATCH nor BUSADDR nor CTRL, and takes no input (44_orchestration.md R115). -/
def Obligations.FrameOfRdpa : Prop :=
  ∀ (acc : Accuracy) (s t : State), s.blk.busy = false → exec (.rdpa acc) s = .next t →
    t.blk.idMatch = s.blk.idMatch ∧ t.blk.busAddr = s.blk.busAddr ∧ t.blk.timeoutEn = s.blk.timeoutEn ∧
      t.inputs = s.inputs ∧ t.replies = s.replies

/-! ## Ends of commands -/

/-- Every command ends within its bound of micro-steps, whatever the transport answers, if it answers (40_sequencer.md R80;
70_reset_and_hazards.md R154): the next state is not busy, holds no handle and has DONE = 1. -/
def Obligations.EveryCommandEndsWithinItsBound : Prop :=
  ∀ (i : Instr) (s : State), s.blk.busy = false → s.blk.handleOpen = false → stepBound i ≤ s.room →
    answerBound i ≤ s.answers.length →
    ∃ t, exec i s = .next t ∧ t.blk.busy = false ∧ t.blk.done = true ∧ t.blk.handleOpen = false ∧ t.blk.upc = .uNone

/-- A command that has ended has one of the codes of its row in the table of R121, and ended Failed exactly when the code is a
failure (60_exceptions.md section 1). -/
def Obligations.CommandsEndWithTheirCodes : Prop :=
  ∀ (i : Instr) (s t : State), s.blk.busy = false → exec i s = .next t → t.blk.busy = false →
    t.blk.errCode ∈ endCodes s.blk.timeoutEn i ∧
      t.blk.phase = (if t.blk.errCode.isFailure then .failed else .complete)
end

