-- ==== Sys2Proof/Laws/Arith.lean ====
section
/-! SUPPORT. What the primitives compute: their integer values where nothing wraps, and zero operands. -/

namespace Sys2Proof.Machine

theorem wrap32_toInt (x : Int) : (wrap32 x).toInt = x.bmod (2 ^ 32) := BitVec.toInt_ofInt ..

/-- Inside the `s32` range `wrap32` changes nothing. -/
theorem wrap32_toInt_of_range {x : Int} (lo : -2 ^ 31 ≤ x) (hi : x < 2 ^ 31) : (wrap32 x).toInt = x := by
  rw [wrap32_toInt, Int.bmod_eq_of_le] <;> omega

/-- Every word is an `s32`. -/
theorem word_toInt_range (a : Word) : -2 ^ 31 ≤ a.toInt ∧ a.toInt < 2 ^ 31 := by
  have h1 := BitVec.le_toInt a
  have h2 := BitVec.toInt_lt (x := a)
  omega

/-- An arithmetic right shift never wraps. -/
theorem asr32_toInt (a : Word) (n : Nat) : (asr32 a n).toInt = a.toInt / 2 ^ n := by
  have h := word_toInt_range a
  have hp : (0 : Int) < 2 ^ n := by positivity
  apply wrap32_toInt_of_range
  · rw [Int.le_ediv_iff_mul_le hp]
    nlinarith [h.1]
  · rw [Int.ediv_lt_iff_lt_mul hp]
    nlinarith [h.2]

theorem zext32_toInt (h : Half) : (zext32 h).toInt = h.toNat := by
  have := h.isLt
  rw [zext32, BitVec.toInt_eq_toNat_of_lt] <;> simp [BitVec.toNat_setWidth] <;> omega

theorem sext32_toInt (h : Half) : (sext32 h).toInt = h.toInt :=
  BitVec.toInt_signExtend_of_le (by decide)

theorem mul32_toInt_of_range {a b : Word} (lo : -2 ^ 31 ≤ a.toInt * b.toInt) (hi : a.toInt * b.toInt < 2 ^ 31) :
    (mul32 a b).toInt = a.toInt * b.toInt := wrap32_toInt_of_range lo hi

theorem add32_toInt_of_range {a b : Word} (lo : -2 ^ 31 ≤ a.toInt + b.toInt) (hi : a.toInt + b.toInt < 2 ^ 31) :
    (add32 a b).toInt = a.toInt + b.toInt := wrap32_toInt_of_range lo hi

theorem sub32_toInt_of_range {a b : Word} (lo : -2 ^ 31 ≤ a.toInt - b.toInt) (hi : a.toInt - b.toInt < 2 ^ 31) :
    (sub32 a b).toInt = a.toInt - b.toInt := wrap32_toInt_of_range lo hi

theorem shl32_toInt_of_range {a : Word} {n : Nat} (lo : -2 ^ 31 ≤ a.toInt * 2 ^ n) (hi : a.toInt * 2 ^ n < 2 ^ 31) :
    (shl32 a n).toInt = a.toInt * 2 ^ n := wrap32_toInt_of_range lo hi

@[simp] theorem mul32_zero (a : Word) : mul32 a 0#32 = 0#32 := by simp [mul32, wrap32]

@[simp] theorem asr32_zero (n : Nat) : asr32 0#32 n = 0#32 := by simp [asr32, wrap32]

@[simp] theorem zext32_zero : zext32 0#16 = 0#32 := rfl

@[simp] theorem sext32_zero : sext32 0#16 = 0#32 := rfl

/-- A quotient of words is a word: `udiv32` never wraps. -/
theorem udiv32_toNat (a b : Word) : (udiv32 a b).toNat = a.toNat / b.toNat := by
  have := Nat.div_le_self a.toNat b.toNat
  simp only [udiv32, BitVec.toNat_ofNat]
  exact Nat.mod_eq_of_lt (by have := a.isLt; omega)

theorem umul32_toNat (a b : Word) : (umul32 a b).toNat = a.toNat * b.toNat % 2 ^ 32 := BitVec.toNat_ofNat ..

theorem ushl32_toNat (a : Word) (n : Nat) : (ushl32 a n).toNat = a.toNat * 2 ^ n % 2 ^ 32 := BitVec.toNat_ofNat ..

end Sys2Proof.Machine
end

