-- ==== Sys2Proof/Laws/State.lean ====
section
/-! SUPPORT. One lemma per field per update of the named operations that make several writes at once, so that no later proof
unfolds the update. -/

namespace Sys2Proof.Machine

/-! ## `enterStage` -/

@[simp] theorem enterStage_cmd (st : Stage) (b : Block) : (enterStage st b).cmd = b.cmd := rfl
@[simp] theorem enterStage_busy (st : Stage) (b : Block) : (enterStage st b).busy = b.busy := rfl
@[simp] theorem enterStage_done (st : Stage) (b : Block) : (enterStage st b).done = b.done := rfl
@[simp] theorem enterStage_calLoaded (st : Stage) (b : Block) : (enterStage st b).calLoaded = b.calLoaded := rfl
@[simp] theorem enterStage_fineValid (st : Stage) (b : Block) : (enterStage st b).fineValid = b.fineValid := rfl
@[simp] theorem enterStage_idMatch (st : Stage) (b : Block) : (enterStage st b).idMatch = b.idMatch := rfl
@[simp] theorem enterStage_pollExhausted (st : Stage) (b : Block) : (enterStage st b).pollExhausted = b.pollExhausted := rfl
@[simp] theorem enterStage_handleOpen (st : Stage) (b : Block) : (enterStage st b).handleOpen = b.handleOpen := rfl
@[simp] theorem enterStage_phase (st : Stage) (b : Block) : (enterStage st b).phase = entryPhase st := rfl
@[simp] theorem enterStage_errCode (st : Stage) (b : Block) : (enterStage st b).errCode = b.errCode := rfl
@[simp] theorem enterStage_timeoutEn (st : Stage) (b : Block) : (enterStage st b).timeoutEn = b.timeoutEn := rfl
@[simp] theorem enterStage_busAddr (st : Stage) (b : Block) : (enterStage st b).busAddr = b.busAddr := rfl
@[simp] theorem enterStage_adcT (st : Stage) (b : Block) : (enterStage st b).adcT = b.adcT := rfl
@[simp] theorem enterStage_adcP (st : Stage) (b : Block) : (enterStage st b).adcP = b.adcP := rfl
@[simp] theorem enterStage_tFine (st : Stage) (b : Block) : (enterStage st b).tFine = b.tFine := rfl
@[simp] theorem enterStage_tOut (st : Stage) (b : Block) : (enterStage st b).tOut = b.tOut := rfl
@[simp] theorem enterStage_pOut (st : Stage) (b : Block) : (enterStage st b).pOut = b.pOut := rfl
@[simp] theorem enterStage_cal (st : Stage) (b : Block) : (enterStage st b).cal = b.cal := rfl
@[simp] theorem enterStage_op (st : Stage) (b : Block) : (enterStage st b).op = b.op := rfl
@[simp] theorem enterStage_osrs (st : Stage) (b : Block) : (enterStage st b).osrs = b.osrs := rfl
@[simp] theorem enterStage_stage (st : Stage) (b : Block) : (enterStage st b).stage = b.stage := rfl
@[simp] theorem enterStage_upc (st : Stage) (b : Block) : (enterStage st b).upc = entryUpc st := rfl
@[simp] theorem enterStage_pollCnt (st : Stage) (b : Block) : (enterStage st b).pollCnt = b.pollCnt := rfl

/-! ## `finishOk` -/

@[simp] theorem finishOk_cmd (b : Block) : (finishOk b).cmd = b.cmd := rfl
@[simp] theorem finishOk_busy (b : Block) : (finishOk b).busy = false := rfl
@[simp] theorem finishOk_done (b : Block) : (finishOk b).done = true := rfl
@[simp] theorem finishOk_calLoaded (b : Block) : (finishOk b).calLoaded = b.calLoaded := rfl
@[simp] theorem finishOk_fineValid (b : Block) : (finishOk b).fineValid = b.fineValid := rfl
@[simp] theorem finishOk_idMatch (b : Block) : (finishOk b).idMatch = b.idMatch := rfl
@[simp] theorem finishOk_pollExhausted (b : Block) : (finishOk b).pollExhausted = b.pollExhausted := rfl
@[simp] theorem finishOk_handleOpen (b : Block) : (finishOk b).handleOpen = b.handleOpen := rfl
@[simp] theorem finishOk_phase (b : Block) : (finishOk b).phase = .complete := rfl
@[simp] theorem finishOk_errCode (b : Block) : (finishOk b).errCode = b.errCode := rfl
@[simp] theorem finishOk_timeoutEn (b : Block) : (finishOk b).timeoutEn = b.timeoutEn := rfl
@[simp] theorem finishOk_busAddr (b : Block) : (finishOk b).busAddr = b.busAddr := rfl
@[simp] theorem finishOk_adcT (b : Block) : (finishOk b).adcT = b.adcT := rfl
@[simp] theorem finishOk_adcP (b : Block) : (finishOk b).adcP = b.adcP := rfl
@[simp] theorem finishOk_tFine (b : Block) : (finishOk b).tFine = b.tFine := rfl
@[simp] theorem finishOk_tOut (b : Block) : (finishOk b).tOut = b.tOut := rfl
@[simp] theorem finishOk_pOut (b : Block) : (finishOk b).pOut = b.pOut := rfl
@[simp] theorem finishOk_cal (b : Block) : (finishOk b).cal = b.cal := rfl
@[simp] theorem finishOk_op (b : Block) : (finishOk b).op = b.op := rfl
@[simp] theorem finishOk_osrs (b : Block) : (finishOk b).osrs = b.osrs := rfl
@[simp] theorem finishOk_stage (b : Block) : (finishOk b).stage = b.stage := rfl
@[simp] theorem finishOk_upc (b : Block) : (finishOk b).upc = .uNone := rfl
@[simp] theorem finishOk_pollCnt (b : Block) : (finishOk b).pollCnt = b.pollCnt := rfl

/-! ## `stageDone` (the fields a stage advance and the end of a command leave alone) -/

@[simp] theorem stageDone_cmd (b : Block) : (stageDone b).cmd = b.cmd := by unfold stageDone; split <;> rfl
@[simp] theorem stageDone_calLoaded (b : Block) : (stageDone b).calLoaded = b.calLoaded := by unfold stageDone; split <;> rfl
@[simp] theorem stageDone_fineValid (b : Block) : (stageDone b).fineValid = b.fineValid := by unfold stageDone; split <;> rfl
@[simp] theorem stageDone_idMatch (b : Block) : (stageDone b).idMatch = b.idMatch := by unfold stageDone; split <;> rfl
@[simp] theorem stageDone_pollExhausted (b : Block) : (stageDone b).pollExhausted = b.pollExhausted := by unfold stageDone; split <;> rfl
@[simp] theorem stageDone_handleOpen (b : Block) : (stageDone b).handleOpen = b.handleOpen := by unfold stageDone; split <;> rfl
@[simp] theorem stageDone_errCode (b : Block) : (stageDone b).errCode = b.errCode := by unfold stageDone; split <;> rfl
@[simp] theorem stageDone_timeoutEn (b : Block) : (stageDone b).timeoutEn = b.timeoutEn := by unfold stageDone; split <;> rfl
@[simp] theorem stageDone_busAddr (b : Block) : (stageDone b).busAddr = b.busAddr := by unfold stageDone; split <;> rfl
@[simp] theorem stageDone_adcT (b : Block) : (stageDone b).adcT = b.adcT := by unfold stageDone; split <;> rfl
@[simp] theorem stageDone_adcP (b : Block) : (stageDone b).adcP = b.adcP := by unfold stageDone; split <;> rfl
@[simp] theorem stageDone_tFine (b : Block) : (stageDone b).tFine = b.tFine := by unfold stageDone; split <;> rfl
@[simp] theorem stageDone_tOut (b : Block) : (stageDone b).tOut = b.tOut := by unfold stageDone; split <;> rfl
@[simp] theorem stageDone_pOut (b : Block) : (stageDone b).pOut = b.pOut := by unfold stageDone; split <;> rfl
@[simp] theorem stageDone_cal (b : Block) : (stageDone b).cal = b.cal := by unfold stageDone; split <;> rfl
@[simp] theorem stageDone_op (b : Block) : (stageDone b).op = b.op := by unfold stageDone; split <;> rfl
@[simp] theorem stageDone_osrs (b : Block) : (stageDone b).osrs = b.osrs := by unfold stageDone; split <;> rfl
@[simp] theorem stageDone_pollCnt (b : Block) : (stageDone b).pollCnt = b.pollCnt := by unfold stageDone; split <;> rfl

/-! ## `failNow` -/

@[simp] theorem failNow_cmd (b : Block) : (failNow b).cmd = b.cmd := rfl
@[simp] theorem failNow_busy (b : Block) : (failNow b).busy = false := rfl
@[simp] theorem failNow_done (b : Block) : (failNow b).done = true := rfl
@[simp] theorem failNow_calLoaded (b : Block) : (failNow b).calLoaded = b.calLoaded := rfl
@[simp] theorem failNow_fineValid (b : Block) : (failNow b).fineValid = b.fineValid := rfl
@[simp] theorem failNow_idMatch (b : Block) : (failNow b).idMatch = b.idMatch := rfl
@[simp] theorem failNow_pollExhausted (b : Block) : (failNow b).pollExhausted = b.pollExhausted := rfl
@[simp] theorem failNow_handleOpen (b : Block) : (failNow b).handleOpen = b.handleOpen := rfl
@[simp] theorem failNow_phase (b : Block) : (failNow b).phase = .failed := rfl
@[simp] theorem failNow_errCode (b : Block) : (failNow b).errCode = b.errCode := rfl
@[simp] theorem failNow_timeoutEn (b : Block) : (failNow b).timeoutEn = b.timeoutEn := rfl
@[simp] theorem failNow_busAddr (b : Block) : (failNow b).busAddr = b.busAddr := rfl
@[simp] theorem failNow_adcT (b : Block) : (failNow b).adcT = b.adcT := rfl
@[simp] theorem failNow_adcP (b : Block) : (failNow b).adcP = b.adcP := rfl
@[simp] theorem failNow_tFine (b : Block) : (failNow b).tFine = b.tFine := rfl
@[simp] theorem failNow_tOut (b : Block) : (failNow b).tOut = b.tOut := rfl
@[simp] theorem failNow_pOut (b : Block) : (failNow b).pOut = b.pOut := rfl
@[simp] theorem failNow_cal (b : Block) : (failNow b).cal = b.cal := rfl
@[simp] theorem failNow_op (b : Block) : (failNow b).op = b.op := rfl
@[simp] theorem failNow_osrs (b : Block) : (failNow b).osrs = b.osrs := rfl
@[simp] theorem failNow_stage (b : Block) : (failNow b).stage = b.stage := rfl
@[simp] theorem failNow_upc (b : Block) : (failNow b).upc = .uNone := rfl
@[simp] theorem failNow_pollCnt (b : Block) : (failNow b).pollCnt = b.pollCnt := rfl

/-! ## `releaseAndFail` -/

@[simp] theorem releaseAndFail_cmd (b : Block) : (releaseAndFail b).cmd = b.cmd := rfl
@[simp] theorem releaseAndFail_busy (b : Block) : (releaseAndFail b).busy = false := rfl
@[simp] theorem releaseAndFail_done (b : Block) : (releaseAndFail b).done = true := rfl
@[simp] theorem releaseAndFail_calLoaded (b : Block) : (releaseAndFail b).calLoaded = b.calLoaded := rfl
@[simp] theorem releaseAndFail_fineValid (b : Block) : (releaseAndFail b).fineValid = b.fineValid := rfl
@[simp] theorem releaseAndFail_idMatch (b : Block) : (releaseAndFail b).idMatch = b.idMatch := rfl
@[simp] theorem releaseAndFail_pollExhausted (b : Block) : (releaseAndFail b).pollExhausted = b.pollExhausted := rfl
@[simp] theorem releaseAndFail_handleOpen (b : Block) : (releaseAndFail b).handleOpen = false := rfl
@[simp] theorem releaseAndFail_phase (b : Block) : (releaseAndFail b).phase = .failed := rfl
@[simp] theorem releaseAndFail_errCode (b : Block) : (releaseAndFail b).errCode = b.errCode := rfl
@[simp] theorem releaseAndFail_timeoutEn (b : Block) : (releaseAndFail b).timeoutEn = b.timeoutEn := rfl
@[simp] theorem releaseAndFail_busAddr (b : Block) : (releaseAndFail b).busAddr = b.busAddr := rfl
@[simp] theorem releaseAndFail_adcT (b : Block) : (releaseAndFail b).adcT = b.adcT := rfl
@[simp] theorem releaseAndFail_adcP (b : Block) : (releaseAndFail b).adcP = b.adcP := rfl
@[simp] theorem releaseAndFail_tFine (b : Block) : (releaseAndFail b).tFine = b.tFine := rfl
@[simp] theorem releaseAndFail_tOut (b : Block) : (releaseAndFail b).tOut = b.tOut := rfl
@[simp] theorem releaseAndFail_pOut (b : Block) : (releaseAndFail b).pOut = b.pOut := rfl
@[simp] theorem releaseAndFail_cal (b : Block) : (releaseAndFail b).cal = b.cal := rfl
@[simp] theorem releaseAndFail_op (b : Block) : (releaseAndFail b).op = b.op := rfl
@[simp] theorem releaseAndFail_osrs (b : Block) : (releaseAndFail b).osrs = b.osrs := rfl
@[simp] theorem releaseAndFail_stage (b : Block) : (releaseAndFail b).stage = b.stage := rfl
@[simp] theorem releaseAndFail_upc (b : Block) : (releaseAndFail b).upc = .uNone := rfl
@[simp] theorem releaseAndFail_pollCnt (b : Block) : (releaseAndFail b).pollCnt = b.pollCnt := rfl

/-! ## `latchCommand` -/

@[simp] theorem latchCommand_cmd (c : Byte) (b : Block) : (latchCommand c b).cmd = c := rfl
@[simp] theorem latchCommand_busy (c : Byte) (b : Block) : (latchCommand c b).busy = b.busy := rfl
@[simp] theorem latchCommand_done (c : Byte) (b : Block) : (latchCommand c b).done = false := rfl
@[simp] theorem latchCommand_calLoaded (c : Byte) (b : Block) : (latchCommand c b).calLoaded = b.calLoaded := rfl
@[simp] theorem latchCommand_fineValid (c : Byte) (b : Block) : (latchCommand c b).fineValid = b.fineValid := rfl
@[simp] theorem latchCommand_idMatch (c : Byte) (b : Block) : (latchCommand c b).idMatch = b.idMatch := rfl
@[simp] theorem latchCommand_pollExhausted (c : Byte) (b : Block) : (latchCommand c b).pollExhausted = false := rfl
@[simp] theorem latchCommand_handleOpen (c : Byte) (b : Block) : (latchCommand c b).handleOpen = b.handleOpen := rfl
@[simp] theorem latchCommand_phase (c : Byte) (b : Block) : (latchCommand c b).phase = b.phase := rfl
@[simp] theorem latchCommand_errCode (c : Byte) (b : Block) : (latchCommand c b).errCode = .none := rfl
@[simp] theorem latchCommand_timeoutEn (c : Byte) (b : Block) : (latchCommand c b).timeoutEn = b.timeoutEn := rfl
@[simp] theorem latchCommand_busAddr (c : Byte) (b : Block) : (latchCommand c b).busAddr = b.busAddr := rfl
@[simp] theorem latchCommand_adcT (c : Byte) (b : Block) : (latchCommand c b).adcT = b.adcT := rfl
@[simp] theorem latchCommand_adcP (c : Byte) (b : Block) : (latchCommand c b).adcP = b.adcP := rfl
@[simp] theorem latchCommand_tFine (c : Byte) (b : Block) : (latchCommand c b).tFine = b.tFine := rfl
@[simp] theorem latchCommand_tOut (c : Byte) (b : Block) : (latchCommand c b).tOut = b.tOut := rfl
@[simp] theorem latchCommand_pOut (c : Byte) (b : Block) : (latchCommand c b).pOut = b.pOut := rfl
@[simp] theorem latchCommand_cal (c : Byte) (b : Block) : (latchCommand c b).cal = b.cal := rfl
@[simp] theorem latchCommand_op (c : Byte) (b : Block) : (latchCommand c b).op = b.op := rfl
@[simp] theorem latchCommand_osrs (c : Byte) (b : Block) : (latchCommand c b).osrs = b.osrs := rfl
@[simp] theorem latchCommand_stage (c : Byte) (b : Block) : (latchCommand c b).stage = b.stage := rfl
@[simp] theorem latchCommand_upc (c : Byte) (b : Block) : (latchCommand c b).upc = b.upc := rfl
@[simp] theorem latchCommand_pollCnt (c : Byte) (b : Block) : (latchCommand c b).pollCnt = b.pollCnt := rfl

/-! ## `acceptIllegal` -/

@[simp] theorem acceptIllegal_cmd (c : Byte) (b : Block) : (acceptIllegal c b).cmd = c := rfl
@[simp] theorem acceptIllegal_busy (c : Byte) (b : Block) : (acceptIllegal c b).busy = b.busy := rfl
@[simp] theorem acceptIllegal_done (c : Byte) (b : Block) : (acceptIllegal c b).done = true := rfl
@[simp] theorem acceptIllegal_calLoaded (c : Byte) (b : Block) : (acceptIllegal c b).calLoaded = b.calLoaded := rfl
@[simp] theorem acceptIllegal_fineValid (c : Byte) (b : Block) : (acceptIllegal c b).fineValid = b.fineValid := rfl
@[simp] theorem acceptIllegal_idMatch (c : Byte) (b : Block) : (acceptIllegal c b).idMatch = b.idMatch := rfl
@[simp] theorem acceptIllegal_pollExhausted (c : Byte) (b : Block) : (acceptIllegal c b).pollExhausted = false := rfl
@[simp] theorem acceptIllegal_handleOpen (c : Byte) (b : Block) : (acceptIllegal c b).handleOpen = b.handleOpen := rfl
@[simp] theorem acceptIllegal_phase (c : Byte) (b : Block) : (acceptIllegal c b).phase = .failed := rfl
@[simp] theorem acceptIllegal_errCode (c : Byte) (b : Block) : (acceptIllegal c b).errCode = .illegalCommand := rfl
@[simp] theorem acceptIllegal_timeoutEn (c : Byte) (b : Block) : (acceptIllegal c b).timeoutEn = b.timeoutEn := rfl
@[simp] theorem acceptIllegal_busAddr (c : Byte) (b : Block) : (acceptIllegal c b).busAddr = b.busAddr := rfl
@[simp] theorem acceptIllegal_adcT (c : Byte) (b : Block) : (acceptIllegal c b).adcT = b.adcT := rfl
@[simp] theorem acceptIllegal_adcP (c : Byte) (b : Block) : (acceptIllegal c b).adcP = b.adcP := rfl
@[simp] theorem acceptIllegal_tFine (c : Byte) (b : Block) : (acceptIllegal c b).tFine = b.tFine := rfl
@[simp] theorem acceptIllegal_tOut (c : Byte) (b : Block) : (acceptIllegal c b).tOut = b.tOut := rfl
@[simp] theorem acceptIllegal_pOut (c : Byte) (b : Block) : (acceptIllegal c b).pOut = b.pOut := rfl
@[simp] theorem acceptIllegal_cal (c : Byte) (b : Block) : (acceptIllegal c b).cal = b.cal := rfl
@[simp] theorem acceptIllegal_op (c : Byte) (b : Block) : (acceptIllegal c b).op = b.op := rfl
@[simp] theorem acceptIllegal_osrs (c : Byte) (b : Block) : (acceptIllegal c b).osrs = b.osrs := rfl
@[simp] theorem acceptIllegal_stage (c : Byte) (b : Block) : (acceptIllegal c b).stage = b.stage := rfl
@[simp] theorem acceptIllegal_upc (c : Byte) (b : Block) : (acceptIllegal c b).upc = b.upc := rfl
@[simp] theorem acceptIllegal_pollCnt (c : Byte) (b : Block) : (acceptIllegal c b).pollCnt = b.pollCnt := rfl

/-! ## `acceptLegal` -/

@[simp] theorem acceptLegal_cmd (c : Byte) (st : Stage) (b : Block) : (acceptLegal c st b).cmd = c := rfl
@[simp] theorem acceptLegal_busy (c : Byte) (st : Stage) (b : Block) : (acceptLegal c st b).busy = true := rfl
@[simp] theorem acceptLegal_done (c : Byte) (st : Stage) (b : Block) : (acceptLegal c st b).done = false := rfl
@[simp] theorem acceptLegal_calLoaded (c : Byte) (st : Stage) (b : Block) : (acceptLegal c st b).calLoaded = b.calLoaded := rfl
@[simp] theorem acceptLegal_fineValid (c : Byte) (st : Stage) (b : Block) : (acceptLegal c st b).fineValid = b.fineValid := rfl
@[simp] theorem acceptLegal_idMatch (c : Byte) (st : Stage) (b : Block) : (acceptLegal c st b).idMatch = if opcField c = 1 then false else b.idMatch := rfl
@[simp] theorem acceptLegal_pollExhausted (c : Byte) (st : Stage) (b : Block) : (acceptLegal c st b).pollExhausted = false := rfl
@[simp] theorem acceptLegal_handleOpen (c : Byte) (st : Stage) (b : Block) : (acceptLegal c st b).handleOpen = b.handleOpen := rfl
@[simp] theorem acceptLegal_phase (c : Byte) (st : Stage) (b : Block) : (acceptLegal c st b).phase = entryPhase st := rfl
@[simp] theorem acceptLegal_errCode (c : Byte) (st : Stage) (b : Block) : (acceptLegal c st b).errCode = .none := rfl
@[simp] theorem acceptLegal_timeoutEn (c : Byte) (st : Stage) (b : Block) : (acceptLegal c st b).timeoutEn = b.timeoutEn := rfl
@[simp] theorem acceptLegal_busAddr (c : Byte) (st : Stage) (b : Block) : (acceptLegal c st b).busAddr = b.busAddr := rfl
@[simp] theorem acceptLegal_adcT (c : Byte) (st : Stage) (b : Block) : (acceptLegal c st b).adcT = b.adcT := rfl
@[simp] theorem acceptLegal_adcP (c : Byte) (st : Stage) (b : Block) : (acceptLegal c st b).adcP = b.adcP := rfl
@[simp] theorem acceptLegal_tFine (c : Byte) (st : Stage) (b : Block) : (acceptLegal c st b).tFine = b.tFine := rfl
@[simp] theorem acceptLegal_tOut (c : Byte) (st : Stage) (b : Block) : (acceptLegal c st b).tOut = b.tOut := rfl
@[simp] theorem acceptLegal_pOut (c : Byte) (st : Stage) (b : Block) : (acceptLegal c st b).pOut = b.pOut := rfl
@[simp] theorem acceptLegal_cal (c : Byte) (st : Stage) (b : Block) : (acceptLegal c st b).cal = b.cal := rfl
@[simp] theorem acceptLegal_op (c : Byte) (st : Stage) (b : Block) : (acceptLegal c st b).op = opcField c := rfl
@[simp] theorem acceptLegal_osrs (c : Byte) (st : Stage) (b : Block) : (acceptLegal c st b).osrs = mapAccuracy (accField c) := rfl
@[simp] theorem acceptLegal_stage (c : Byte) (st : Stage) (b : Block) : (acceptLegal c st b).stage = 0 := rfl
@[simp] theorem acceptLegal_upc (c : Byte) (st : Stage) (b : Block) : (acceptLegal c st b).upc = entryUpc st := rfl
@[simp] theorem acceptLegal_pollCnt (c : Byte) (st : Stage) (b : Block) : (acceptLegal c st b).pollCnt = b.pollCnt := rfl

/-! ## `idleBlock` -/

@[simp] theorem idleBlock_cmd (b : Block) : (idleBlock b).cmd = b.cmd := rfl
@[simp] theorem idleBlock_busy (b : Block) : (idleBlock b).busy = false := rfl
@[simp] theorem idleBlock_done (b : Block) : (idleBlock b).done = b.done := rfl
@[simp] theorem idleBlock_calLoaded (b : Block) : (idleBlock b).calLoaded = b.calLoaded := rfl
@[simp] theorem idleBlock_fineValid (b : Block) : (idleBlock b).fineValid = b.fineValid := rfl
@[simp] theorem idleBlock_idMatch (b : Block) : (idleBlock b).idMatch = b.idMatch := rfl
@[simp] theorem idleBlock_pollExhausted (b : Block) : (idleBlock b).pollExhausted = b.pollExhausted := rfl
@[simp] theorem idleBlock_handleOpen (b : Block) : (idleBlock b).handleOpen = false := rfl
@[simp] theorem idleBlock_phase (b : Block) : (idleBlock b).phase = b.phase := rfl
@[simp] theorem idleBlock_errCode (b : Block) : (idleBlock b).errCode = b.errCode := rfl
@[simp] theorem idleBlock_timeoutEn (b : Block) : (idleBlock b).timeoutEn = b.timeoutEn := rfl
@[simp] theorem idleBlock_busAddr (b : Block) : (idleBlock b).busAddr = b.busAddr := rfl
@[simp] theorem idleBlock_adcT (b : Block) : (idleBlock b).adcT = b.adcT := rfl
@[simp] theorem idleBlock_adcP (b : Block) : (idleBlock b).adcP = b.adcP := rfl
@[simp] theorem idleBlock_tFine (b : Block) : (idleBlock b).tFine = b.tFine := rfl
@[simp] theorem idleBlock_tOut (b : Block) : (idleBlock b).tOut = b.tOut := rfl
@[simp] theorem idleBlock_pOut (b : Block) : (idleBlock b).pOut = b.pOut := rfl
@[simp] theorem idleBlock_cal (b : Block) : (idleBlock b).cal = b.cal := rfl
@[simp] theorem idleBlock_op (b : Block) : (idleBlock b).op = b.op := rfl
@[simp] theorem idleBlock_osrs (b : Block) : (idleBlock b).osrs = b.osrs := rfl
@[simp] theorem idleBlock_stage (b : Block) : (idleBlock b).stage = b.stage := rfl
@[simp] theorem idleBlock_upc (b : Block) : (idleBlock b).upc = .uNone := rfl
@[simp] theorem idleBlock_pollCnt (b : Block) : (idleBlock b).pollCnt = b.pollCnt := rfl

/-! ## `takeTurn` -/

@[simp] theorem takeTurn_blk (t : Turn) (rest : List Turn) (s : State) : (takeTurn t rest s).blk = s.blk := rfl
@[simp] theorem takeTurn_inputs (t : Turn) (rest : List Turn) (s : State) : (takeTurn t rest s).inputs = rest := rfl
@[simp] theorem takeTurn_room (t : Turn) (rest : List Turn) (s : State) : (takeTurn t rest s).room = t.room := rfl
@[simp] theorem takeTurn_answers (t : Turn) (rest : List Turn) (s : State) : (takeTurn t rest s).answers = s.answers := rfl
@[simp] theorem takeTurn_trace (t : Turn) (rest : List Turn) (s : State) : (takeTurn t rest s).trace = s.trace := rfl
@[simp] theorem takeTurn_replies (t : Turn) (rest : List Turn) (s : State) : (takeTurn t rest s).replies = s.replies := rfl

/-! ## `State.withFetchWord` -/

@[simp] theorem State.withFetchWord_blk (s : State) (nbits w : Nat) : (s.withFetchWord nbits w).blk = idleBlock s.blk := rfl
@[simp] theorem State.withFetchWord_inputs (s : State) (nbits w : Nat) : (s.withFetchWord nbits w).inputs = ⟨.write 0 (BitVec.ofNat 32 (w % 2 ^ nbits)), commandRoom⟩ :: s.inputs := rfl
@[simp] theorem State.withFetchWord_room (s : State) (nbits w : Nat) : (s.withFetchWord nbits w).room = s.room := rfl
@[simp] theorem State.withFetchWord_answers (s : State) (nbits w : Nat) : (s.withFetchWord nbits w).answers = s.answers := rfl
@[simp] theorem State.withFetchWord_trace (s : State) (nbits w : Nat) : (s.withFetchWord nbits w).trace = s.trace := rfl
@[simp] theorem State.withFetchWord_replies (s : State) (nbits w : Nat) : (s.withFetchWord nbits w).replies = s.replies := rfl

end Sys2Proof.Machine
end

