-- ==== Sys2Proof/Laws/Engine.lean ====
section
/-! SUPPORT. What one engine step can do, said once (`engineStep_cases`), what it does at each kind of control position, and how
runs of engine steps compose. -/

namespace Sys2Proof.Machine

/-! ## One step -/

/-- `BUSY = 0`: the engine does not step (R70). -/
@[simp] theorem engineStep_idle {s : State} (h : s.blk.busy = false) : engineStep s = .next s := by
  simp [engineStep, h]

/-- A micro-step without an event. -/
theorem engineStep_compute {s : State} (hb : s.blk.busy = true) (he : eventOf s.blk = none) :
    engineStep s = commit (.ok []) s := by
  simp [engineStep, hb, he]

/-- A micro-step whose event has no answer. -/
theorem engineStep_unanswered {s : State} {e : Event} (hb : s.blk.busy = true) (he : eventOf s.blk = some e)
    (ha : e.answered = false) :
    engineStep s = commit (.ok []) { s with trace := s.trace ++ [⟨e, none⟩] } := by
  simp [engineStep, hb, he, ha]

/-- A micro-step whose event has been answered. -/
theorem engineStep_answered {s : State} {e : Event} {a : Answer} {rest : List Answer} (hb : s.blk.busy = true)
    (he : eventOf s.blk = some e) (ha : e.answered = true) (hs : s.answers = a :: rest) :
    engineStep s =
      commit (e.heard a) { s with answers := rest, trace := s.trace ++ [⟨e, some (e.heard a)⟩] } := by
  simp [engineStep, hb, he, ha, hs]

/-- A micro-step whose event has not been answered waits (R153). -/
theorem engineStep_waits {s : State} {e : Event} (hb : s.blk.busy = true) (he : eventOf s.blk = some e)
    (ha : e.answered = true) (hs : s.answers = []) : engineStep s = .next s := by
  simp [engineStep, hb, he, ha, hs]

/-- Everything an engine step that gives a next state can do: nothing (idle or waiting), or the writes of one micro-step, with
no event, an event without answer, or an event with the answer heard. -/
theorem engineStep_cases {s s' : State} (h : engineStep s = .next s') :
    s' = s ∨
      ∃ b : Block, s.blk.busy = true ∧
        ((eventOf s.blk = none ∧ effectOf (.ok []) s.blk = some b ∧ s' = { s with blk := b }) ∨
        (∃ e, eventOf s.blk = some e ∧ e.answered = false ∧ effectOf (.ok []) s.blk = some b ∧
          s' = { s with blk := b, trace := s.trace ++ [⟨e, none⟩] }) ∨
        (∃ e a rest, eventOf s.blk = some e ∧ e.answered = true ∧ s.answers = a :: rest ∧
          effectOf (e.heard a) s.blk = some b ∧
          s' = { s with blk := b, answers := rest, trace := s.trace ++ [⟨e, some (e.heard a)⟩] })) := by
  unfold engineStep at h
  split at h
  · next hb =>
    split at h
    · next he =>
      unfold commit at h
      split at h
      · next b hf => cases h; exact .inr ⟨b, hb, .inl ⟨he, hf, rfl⟩⟩
      · cases h
    · next e he =>
      split at h
      · next ha =>
        split at h
        · cases h; exact .inl rfl
        · next a rest hs =>
          unfold commit at h
          split at h
          · next b hf => cases h; exact .inr ⟨b, hb, .inr (.inr ⟨e, a, rest, he, ha, hs, hf, rfl⟩)⟩
          · cases h
      · next ha =>
        unfold commit at h
        split at h
        · next b hf => cases h; exact .inr ⟨b, hb, .inr (.inl ⟨e, he, by simpa using ha, hf, rfl⟩)⟩
        · cases h
  · cases h; exact .inl rfl

/-- An engine step leaves the inputs, the room and the replies alone. -/
theorem engineStep_keeps_outside {s s' : State} (h : engineStep s = .next s') :
    s'.inputs = s.inputs ∧ s'.room = s.room ∧ s'.replies = s.replies := by
  rcases engineStep_cases h with rfl | ⟨b, -, ⟨-, -, rfl⟩ | ⟨e, -, -, -, rfl⟩ | ⟨e, a, rest, -, -, -, -, rfl⟩⟩ <;>
    exact ⟨rfl, rfl, rfl⟩

/-! ## Runs -/

@[simp] theorem runEngine_zero (s : State) : runEngine 0 s = .next s := rfl

/-- A run that begins with a step that gives a next state. -/
theorem runEngine_succ {n : Nat} {s s' : State} (h : engineStep s = .next s') :
    runEngine (n + 1) s = runEngine n s' := by
  simp [runEngine, h]

/-- `BUSY = 0`: a run changes nothing. -/
@[simp] theorem runEngine_idle {s : State} (h : s.blk.busy = false) (n : Nat) : runEngine n s = .next s := by
  induction n with
  | zero => rfl
  | succ n ih => rw [runEngine_succ (engineStep_idle h), ih]

/-- A run of `m + n` steps is a run of `m` steps and then one of `n`. -/
theorem runEngine_add {m n : Nat} {s t : State} (h : runEngine m s = .next t) :
    runEngine (m + n) s = runEngine n t := by
  induction m generalizing s with
  | zero => cases h; simp
  | succ m ih =>
    rw [Nat.succ_add]
    simp only [runEngine] at h ⊢
    split at h
    · exact ih h
    · cases h
    · cases h

/-- A property every engine step keeps is kept by every run. -/
theorem runEngine_invariant {P : State → Prop} (keeps : ∀ s s', P s → engineStep s = .next s' → P s') :
    ∀ {n : Nat} {s t : State}, P s → runEngine n s = .next t → P t := by
  intro n
  induction n with
  | zero => intro s t hp h; cases h; exact hp
  | succ n ih =>
    intro s t hp h
    simp only [runEngine] at h
    split at h
    · next s' hs => exact ih (keeps _ _ hp hs) h
    · cases h
    · cases h

/-- A run leaves the inputs, the room and the replies alone. -/
theorem runEngine_keeps_outside {n : Nat} {s t : State} (h : runEngine n s = .next t) :
    t.inputs = s.inputs ∧ t.room = s.room ∧ t.replies = s.replies := by
  refine runEngine_invariant (P := fun t => t.inputs = s.inputs ∧ t.room = s.room ∧ t.replies = s.replies)
    (fun u u' hp hu => ?_) ⟨rfl, rfl, rfl⟩ h
  obtain ⟨h1, h2, h3⟩ := engineStep_keeps_outside hu
  exact ⟨h1.trans hp.1, h2.trans hp.2.1, h3.trans hp.2.2⟩

/-- The engine's turn of an idle block only clears the room. -/
theorem engineTurn_idle {s : State} (h : s.blk.busy = false) : engineTurn s = .next { s with room := 0 } :=
  runEngine_idle (s := { s with room := 0 }) h _

/-- A turn without room only clears the room (it is 0 already). -/
theorem engineTurn_no_room {s : State} (h : s.room = 0) : engineTurn s = .next s := by
  cases s; cases h; rfl

/-! ## Commands -/

/-- A command word written to a block that is not busy is accepted (R54). -/
theorem command_accepted {c : Byte} {first : Stage} {s : State} (h : s.blk.busy = false) :
    command c first s = runEngine s.room { s with blk := acceptLegal c first s.blk, room := 0 } := by
  simp [command, issue, h, engineTurn]

/-- A command word written to a busy block is dropped (R54). -/
theorem command_dropped {c : Byte} {first : Stage} {s : State} (h : s.blk.busy = true) :
    command c first s = engineTurn s := by
  simp [command, issue, h]

/-- The first stage of a command. -/
def firstStage : Instr → Stage
  | .verify => .sId
  | .calib => .sCal
  | .rdut _ | .rdpa _ => .sMeasT
  | .rdup _ => .sMeasP
  | .compt => .sCompT
  | .compp => .sCompP

/-- Every meaning is the write of the command's word. -/
theorem exec_eq_command (i : Instr) (s : State) : exec i s = command (encode i) (firstStage i) s := by
  cases i <;> rfl

/-- The fields of a command's word. -/
theorem opcField_encode (i : Instr) : opcField (encode i) = opcode i := by
  cases i with
  | rdut acc | rdup acc | rdpa acc =>
    simp only [encode, operandBits, opcode]
    generalize accBits acc = a
    revert a; decide
  | verify | calib | compt | compp => decide

theorem accField_encode_measure (acc : Accuracy) :
    accField (encode (.rdut acc)) = accBits acc ∧ accField (encode (.rdup acc)) = accBits acc ∧
      accField (encode (.rdpa acc)) = accBits acc := by
  simp only [encode, operandBits, opcode]
  generalize accBits acc = a
  revert a; decide

/-- The first stage is the stage list's first entry (R71, R72). -/
theorem firstStage_mem (i : Instr) : (stageList (opcode i))[0]? = some (firstStage i) := by
  cases i <;> rfl

/-! ## The control positions of a busy block -/

/-- `effectOf` and `eventOf` at a known control position of a known stage. -/
theorem currentStage_of {b : Block} {op : BitVec 4} {n : BitVec 3} (h1 : b.op = op) (h2 : b.stage = n) :
    currentStage b = (stageList op)[n.toNat]? := by
  subst h1 h2; rfl

end Sys2Proof.Machine
end

