-- ==== Sys2Proof/Laws/MicroSteps.lean ====
section
/-! SUPPORT. One engine step at each micro-step, as an equation: the block's writes, the answers left, and the exchange recorded.
These are what symbolic runs of whole commands chain. -/

namespace Sys2Proof.Machine

section

variable {s : State} {rest : List Answer}

/-! ## Open, close, abort -/

theorem engineStep_open_ok {next : Upc} {x : List Byte} (hb : s.blk.busy = true) (hu : s.blk.upc = .uOpen)
    (hn : (currentStage s.blk).bind afterOpen = some next) (hs : s.answers = .ok x :: rest) :
    engineStep s = .next { s with
      blk := { s.blk with handleOpen := true, upc := next }
      answers := rest
      trace := s.trace ++ [⟨.busOpen s.blk.busAddr, some (.ok [])⟩] } := by
  rw [engineStep_answered hb (e := .busOpen s.blk.busAddr) (by simp [eventOf, hu, hn]) rfl hs]
  simp [commit, effectOf, hu, hn, Event.heard, uOpen]

theorem engineStep_open_err {next : Upc} (hb : s.blk.busy = true) (hu : s.blk.upc = .uOpen)
    (hn : (currentStage s.blk).bind afterOpen = some next) (hs : s.answers = .err :: rest) :
    engineStep s = .next { s with
      blk := failNow { s.blk with errCode := .transportOpenError }
      answers := rest
      trace := s.trace ++ [⟨.busOpen s.blk.busAddr, some .err⟩] } := by
  rw [engineStep_answered hb (e := .busOpen s.blk.busAddr) (by simp [eventOf, hu, hn]) rfl hs]
  simp [commit, effectOf, hu, hn, Event.heard, uOpen, raise]

theorem engineStep_close (hb : s.blk.busy = true) (hu : s.blk.upc = .uClose) :
    engineStep s = .next { s with
      blk := stageDone { s.blk with handleOpen := false }
      trace := s.trace ++ [⟨.busClose, none⟩] } := by
  rw [engineStep_unanswered hb (e := .busClose) (by simp [eventOf, hu]) rfl]
  simp [commit, effectOf, hu, uClose]

theorem engineStep_abort (hb : s.blk.busy = true) (hu : s.blk.upc = .uAbort) :
    engineStep s = .next { s with
      blk := releaseAndFail s.blk
      trace := s.trace ++ [⟨.busClose, none⟩] } := by
  rw [engineStep_unanswered hb (e := .busClose) (by simp [eventOf, hu]) rfl]
  simp [commit, effectOf, hu, uAbort]

/-! ## Reads that fail -/

/-- A read the transport fails is heard as `Err` (R33). -/
theorem heard_of_failsRead {r : Byte} {n : Nat} {a : Answer} (h : failsRead n a = true) :
    Event.heard (.busRead r n) a = .err := by
  cases a with
  | err => rfl
  | ok bs => simp only [failsRead, decide_eq_true_eq] at h; simp [Event.heard, h]

/-- A failed read records TransportIOError and goes on to the release (R76). -/
theorem engineStep_read_fails {r : Byte} {n : Nat} {a : Answer} (hb : s.blk.busy = true)
    (he : eventOf s.blk = some (.busRead r n))
    (hf : effectOf .err s.blk = some (raise true .transportIOError s.blk)) (hs : s.answers = a :: rest)
    (ha : failsRead n a = true) :
    engineStep s = .next { s with
      blk := { s.blk with errCode := .transportIOError, upc := .uAbort }
      answers := rest
      trace := s.trace ++ [⟨.busRead r n, some .err⟩] } := by
  rw [engineStep_answered hb he rfl hs, heard_of_failsRead ha]
  simp [commit, hf, raise]

/-! ## Identity and calibration -/

theorem engineStep_rdid {v : Byte} (hb : s.blk.busy = true) (hu : s.blk.upc = .uRdid)
    (hs : s.answers = .ok [v] :: rest) :
    engineStep s = .next { s with
      blk := { s.blk with
        idMatch := decide (v = 0x58)
        errCode := if v = 0x58 then s.blk.errCode else .identityMismatch
        upc := .uClose }
      answers := rest
      trace := s.trace ++ [⟨.busRead 0xD0 1, some (.ok [v])⟩] } := by
  rw [engineStep_answered hb (e := .busRead 0xD0 1) (by simp [eventOf, hu, regId]) rfl hs]
  simp [commit, effectOf, hu, Event.heard, uRdid, signature]
  split <;> simp_all

theorem engineStep_rdid_fails {a : Answer} (hb : s.blk.busy = true) (hu : s.blk.upc = .uRdid)
    (hs : s.answers = a :: rest) (ha : failsRead 1 a = true) :
    engineStep s = .next { s with
      blk := { s.blk with errCode := .transportIOError, upc := .uAbort }
      answers := rest
      trace := s.trace ++ [⟨.busRead 0xD0 1, some .err⟩] } :=
  engineStep_read_fails hb (by simp [eventOf, hu, regId]) (by simp [effectOf, hu, uRdid]) hs ha

theorem engineStep_rdcal {bs : List Byte} (hb : s.blk.busy = true) (hu : s.blk.upc = .uRdcal) (hl : bs.length = 24)
    (hs : s.answers = .ok bs :: rest) :
    engineStep s = .next { s with
      blk := { s.blk with cal := decodeCal bs, calLoaded := true, upc := .uClose }
      answers := rest
      trace := s.trace ++ [⟨.busRead 0x88 24, some (.ok bs)⟩] } := by
  rw [engineStep_answered hb (e := .busRead 0x88 24) (by simp [eventOf, hu, regCalib, calibLen]) rfl hs]
  simp [commit, effectOf, hu, Event.heard, uRdcal, calibLen, hl]

theorem engineStep_rdcal_fails {a : Answer} (hb : s.blk.busy = true) (hu : s.blk.upc = .uRdcal)
    (hs : s.answers = a :: rest) (ha : failsRead 24 a = true) :
    engineStep s = .next { s with
      blk := { s.blk with errCode := .transportIOError, upc := .uAbort }
      answers := rest
      trace := s.trace ++ [⟨.busRead 0x88 24, some .err⟩] } :=
  engineStep_read_fails hb (by simp [eventOf, hu, regCalib, calibLen]) (by simp [effectOf, hu, uRdcal]) hs ha

/-! ## A measurement stage -/

theorem engineStep_trig {q : Quantity} {x : List Byte} (hb : s.blk.busy = true) (hu : s.blk.upc = .uTrig)
    (hq : currentQuantity s.blk = some q) (hs : s.answers = .ok x :: rest) :
    engineStep s = .next { s with
      blk := { s.blk with phase := .triggered, pollCnt := 0, upc := .uPoll }
      answers := rest
      trace := s.trace ++ [⟨.busWrite 0xF4 (ctrlByte q s.blk.osrs), some (.ok [])⟩] } := by
  rw [engineStep_answered hb (e := .busWrite 0xF4 (ctrlByte q s.blk.osrs)) (by simp [eventOf, hu, hq, regCtrl]) rfl hs]
  simp [commit, effectOf, hu, hq, Event.heard, uTrig]

theorem engineStep_trig_err {q : Quantity} (hb : s.blk.busy = true) (hu : s.blk.upc = .uTrig)
    (hq : currentQuantity s.blk = some q) (hs : s.answers = .err :: rest) :
    engineStep s = .next { s with
      blk := { s.blk with errCode := .transportIOError, upc := .uAbort }
      answers := rest
      trace := s.trace ++ [⟨.busWrite 0xF4 (ctrlByte q s.blk.osrs), some .err⟩] } := by
  rw [engineStep_answered hb (e := .busWrite 0xF4 (ctrlByte q s.blk.osrs)) (by simp [eventOf, hu, hq, regCtrl]) rfl hs]
  simp [commit, effectOf, hu, hq, Event.heard, uTrig, raise]

theorem engineStep_poll {v : Byte} (hb : s.blk.busy = true) (hu : s.blk.upc = .uPoll)
    (hs : s.answers = .ok [v] :: rest) :
    engineStep s = .next { s with
      blk := { s.blk with
        phase := .polling, pollCnt := s.blk.pollCnt + 1, upc := if measuring v then .uDelay else .uData }
      answers := rest
      trace := s.trace ++ [⟨.busRead 0xF3 1, some (.ok [v])⟩] } := by
  rw [engineStep_answered hb (e := .busRead 0xF3 1) (by simp [eventOf, hu, regStatus]) rfl hs]
  simp [commit, effectOf, hu, Event.heard, uPoll]

theorem engineStep_poll_fails {a : Answer} (hb : s.blk.busy = true) (hu : s.blk.upc = .uPoll)
    (hs : s.answers = a :: rest) (ha : failsRead 1 a = true) :
    engineStep s = .next { s with
      blk := { s.blk with errCode := .transportIOError, upc := .uAbort }
      answers := rest
      trace := s.trace ++ [⟨.busRead 0xF3 1, some .err⟩] } :=
  engineStep_read_fails hb (by simp [eventOf, hu, regStatus]) (by simp [effectOf, hu, uPoll]) hs ha

theorem engineStep_delay (hb : s.blk.busy = true) (hu : s.blk.upc = .uDelay) :
    engineStep s = .next { s with
      blk := uDelay s.blk
      trace := s.trace ++ [⟨.delay, none⟩] } := by
  rw [engineStep_unanswered hb (e := .delay) (by simp [eventOf, hu]) rfl]
  simp [commit, effectOf, hu]

theorem uDelay_retry {b : Block} (h : b.pollCnt.toNat < 30) : uDelay b = { b with upc := .uPoll } := by
  simp [uDelay, pollMax, h]

theorem uDelay_proceed {b : Block} (h : 30 ≤ b.pollCnt.toNat) (ht : b.timeoutEn = false) :
    uDelay b = { b with pollExhausted := true, upc := .uData } := by
  simp [uDelay, pollMax, Nat.not_lt.mpr h, ht]

theorem uDelay_timeout {b : Block} (h : 30 ≤ b.pollCnt.toNat) (ht : b.timeoutEn = true) :
    uDelay b = { b with pollExhausted := true, errCode := .timeoutError, upc := .uAbort } := by
  simp [uDelay, pollMax, Nat.not_lt.mpr h, ht, raise]

theorem engineStep_data {q : Quantity} {b0 b1 b2 : Byte} (hb : s.blk.busy = true) (hu : s.blk.upc = .uData)
    (hq : currentQuantity s.blk = some q) (hs : s.answers = .ok [b0, b1, b2] :: rest) :
    engineStep s = .next { s with
      blk := { setAdc q ((decodeRaw b0 b1 b2).setWidth 32) s.blk with upc := .uClose }
      answers := rest
      trace := s.trace ++ [⟨.busRead (dataReg q) 3, some (.ok [b0, b1, b2])⟩] } := by
  rw [engineStep_answered hb (e := .busRead (dataReg q) 3) (by simp [eventOf, hu, hq]) rfl hs]
  simp [commit, effectOf, hu, hq, Event.heard, uData]

theorem engineStep_data_fails {q : Quantity} {a : Answer} (hb : s.blk.busy = true) (hu : s.blk.upc = .uData)
    (hq : currentQuantity s.blk = some q) (hs : s.answers = a :: rest) (ha : failsRead 3 a = true) :
    engineStep s = .next { s with
      blk := { s.blk with errCode := .transportIOError, upc := .uAbort }
      answers := rest
      trace := s.trace ++ [⟨.busRead (dataReg q) 3, some .err⟩] } :=
  engineStep_read_fails hb (by simp [eventOf, hu, hq]) (by simp [effectOf, hu, hq, uData]) hs ha

/-! ## The compute stages -/

theorem engineStep_compT (hb : s.blk.busy = true) (hu : s.blk.upc = .uCompT) :
    engineStep s = .next { s with blk := uCompT s.blk } := by
  rw [engineStep_compute hb (by simp [eventOf, hu])]
  simp [commit, effectOf, hu]

theorem engineStep_compP (hb : s.blk.busy = true) (hu : s.blk.upc = .uCompP) :
    engineStep s = .next { s with blk := uCompP s.blk } := by
  rw [engineStep_compute hb (by simp [eventOf, hu])]
  simp [commit, effectOf, hu]

end

/-! ## Stage advance -/

/-- The last stage of the command is done (R75). -/
theorem stageDone_last {b : Block} (h : (stageList b.op)[b.stage.toNat + 1]? = none) : stageDone b = finishOk b := by
  simp [stageDone, h]

/-- Another stage follows (R74). -/
theorem stageDone_next {b : Block} {st : Stage} (h : (stageList b.op)[b.stage.toNat + 1]? = some st) :
    stageDone b = enterStage st { b with stage := b.stage + 1 } := by
  simp [stageDone, h]

/-! ## Idle runs and polls -/

/-- The next poll count. -/
theorem pollCnt_succ (n : Nat) : BitVec.ofNat 5 n + 1 = BitVec.ofNat 5 (n + 1) := by
  apply BitVec.eq_of_toNat_eq
  simp [BitVec.toNat_add]

/-- The same with the literal in simp's normal form. -/
theorem pollCnt_succ_ofNat (n : Nat) : BitVec.ofNat 5 n + 1#5 = BitVec.ofNat 5 (n + 1) := pollCnt_succ n

theorem pollCnt_toNat {n : Nat} (h : n ≤ 30) : (BitVec.ofNat 5 n).toNat = n := by
  simp only [BitVec.toNat_ofNat]; omega

end Sys2Proof.Machine
end

