-- ==== Sys2Proof/Laws/Step.lean ====
section
/-! SUPPORT. What one step of the machine can do, said once (`step_takes_input`): an input changes the block in one of five ways,
and then the engine has its turn. Then runs of several steps. -/

namespace Sys2Proof.Machine

/-- With no input to come, a step is a step of the engine. -/
theorem step_engine {s : State} (h : s.inputs = []) : step s = engineStep s := by
  simp [step, h]

/-- With an input to come, a step is that input on the state with it taken. -/
theorem step_serve {s : State} {t : Turn} {rest : List Turn} (h : s.inputs = t :: rest) :
    step s = serve t.input { s with inputs := rest, room := t.room } := by
  simp [step, h, takeTurn]

/-- How an input can change the block: not at all, by a legal command word, by an illegal one, by a write of another register, by a
reset. -/
inductive InputChange (x : Input) (b : Block) : Block → Prop where
  | unchanged : InputChange x b b
  | command (i : Instr) : InputChange x b (issue (encode i) (firstStage i) b)
  | illegal (c : Byte) : InputChange x b (issueIllegal c b)
  | register (i : BitVec 5) (v : Word) : InputChange x b (hostWriteReg i v b)
  | reset (h : x = .reset) : InputChange x b Block.reset

/-- Everything a step that takes an input can do: the block changes in one of the five ways, the answers and the trace do not, and
the engine has the turn's room from there. -/
theorem step_takes_input {s : State} {t : Turn} {rest : List Turn} (h : s.inputs = t :: rest) :
    ∃ u : State, step s = runEngine t.room u ∧ InputChange t.input s.blk u.blk ∧ u.answers = s.answers ∧ u.trace = s.trace ∧
      u.room = 0 := by
  rw [step_serve h]
  obtain ⟨x, n⟩ := t
  cases x with
  | read i =>
    exact ⟨{ s with inputs := rest, room := 0, replies := s.replies ++ [hostRead i s.blk] }, rfl, .unchanged, rfl, rfl, rfl⟩
  | wait =>
    exact ⟨{ s with
      inputs := if (hostRead 1 s.blk).getLsbD 0 then ⟨.wait, n⟩ :: rest else rest
      room := 0
      replies := s.replies ++ [hostRead 1 s.blk] }, rfl, .unchanged, rfl, rfl, rfl⟩
  | reset => exact ⟨{ s with inputs := rest, room := 0, blk := Block.reset }, rfl, .reset rfl, rfl, rfl, rfl⟩
  | write i v =>
    simp only [serve, serveWrite]
    split
    · unfold serveCommand
      split
      · next i _ =>
        rw [exec_eq_command]
        exact ⟨{ s with inputs := rest, room := 0, blk := issue (encode i) (firstStage i) s.blk }, rfl, .command i, rfl, rfl,
          rfl⟩
      · exact ⟨{ s with inputs := rest, room := 0, blk := issueIllegal (v.setWidth 8) s.blk }, rfl, .illegal _, rfl, rfl, rfl⟩
    · exact ⟨{ s with inputs := rest, room := 0, blk := hostWriteReg i v s.blk }, rfl, .register i v, rfl, rfl, rfl⟩

/-- A command written to a block that is not busy is accepted, and the engine has the room from there. -/
theorem exec_idle {i : Instr} {s : State} (h : s.blk.busy = false) :
    exec i s = runEngine s.room { s with blk := acceptLegal (encode i) (firstStage i) s.blk, room := 0 } := by
  rw [exec_eq_command, command_accepted h]

/-- The oversampling value is 1 to 5 (R90). -/
theorem mapAccuracy_range : ∀ acc : BitVec 3, 1 ≤ (mapAccuracy acc).toNat ∧ (mapAccuracy acc).toNat ≤ 5 := by decide

/-- `OPC` is 1 to 7 (R51). -/
theorem opcode_range (i : Instr) : 1 ≤ (opcode i).toNat ∧ (opcode i).toNat ≤ 7 := by
  cases i <;> simp [opcode]

@[simp] theorem runSteps_zero (s : State) : runSteps 0 s = .next s := rfl

/-- A run of several steps is its first step and then the rest. -/
theorem runSteps_succ {n : Nat} {s t : State} (h : step s = .next t) : runSteps (n + 1) s = runSteps n t := by
  simp [runSteps, h]

/-- A write to a register other than `CMD` of a block that is not busy is one step, and the engine rests after it. -/
theorem step_write_register {s : State} {i : BitVec 5} {v : Word} {n : Nat} {rest : List Turn} (hb : s.blk.busy = false)
    (hi : i ≠ 0) (h : s.inputs = ⟨.write i v, n⟩ :: rest) :
    step s = .next { s with inputs := rest, room := 0, blk := storeReg i v s.blk } := by
  have hq : (storeReg i v s.blk).busy = false := by
    unfold storeReg
    split <;> try split
    all_goals exact hb
  rw [step_serve h]
  simp only [serve, serveWrite, if_neg hi, hostWriteReg, hb, Bool.false_eq_true, if_false]
  rw [engineTurn_idle (by exact hq)]

end Sys2Proof.Machine
end

