-- ==== Sys2Proof/Laws/Frames.lean ====
section
/-! SUPPORT. What no micro-step changes (`effectOf_frame`), and how a property that every micro-step keeps is carried through a
command (`exec_invariant`). -/

namespace Sys2Proof.Machine

/-- What a micro-step leaves alone: BUSADDR, CTRL, OP, OSRS and CMD always, and every register it is not the one micro-step to
write. -/
theorem effectOf_frame {b b' : Block} {a : Answer} (h : effectOf a b = some b') :
    (b'.busAddr = b.busAddr ∧ b'.timeoutEn = b.timeoutEn ∧ b'.op = b.op ∧ b'.osrs = b.osrs ∧ b'.cmd = b.cmd) ∧
    (b.upc ≠ .uRdid → b'.idMatch = b.idMatch) ∧
    (b.upc ≠ .uRdcal → b'.cal = b.cal ∧ b'.calLoaded = b.calLoaded) ∧
    (b.upc ≠ .uData → b'.adcT = b.adcT ∧ b'.adcP = b.adcP) ∧
    (b.upc ≠ .uCompT → b'.tFine = b.tFine ∧ b'.tOut = b.tOut ∧ b'.fineValid = b.fineValid) ∧
    (b.upc ≠ .uCompP → b'.pOut = b.pOut) ∧
    (b.upc ≠ .uTrig → b.upc ≠ .uPoll → b'.pollCnt = b.pollCnt) ∧
    (b.upc ≠ .uDelay → b'.pollExhausted = b.pollExhausted) := by
  unfold effectOf at h
  split at h
  case h_1 => cases h
  case h_2 hu =>
    rw [hu]
    obtain ⟨next, -, rfl⟩ := Option.map_eq_some_iff.mp h
    unfold uOpen
    split <;> simp [raise]
  case h_3 hu => rw [hu]; cases h; unfold uRdid; split <;> (try split) <;> simp [raise]
  case h_4 hu => rw [hu]; cases h; unfold uRdcal; split <;> (try split) <;> simp [raise]
  case h_5 hu =>
    rw [hu]
    obtain ⟨q, -, rfl⟩ := Option.map_eq_some_iff.mp h
    unfold uTrig
    split <;> simp [raise]
  case h_6 hu => rw [hu]; cases h; unfold uPoll; split <;> simp [raise]
  case h_7 hu => rw [hu]; cases h; unfold uDelay; split <;> (try split) <;> simp [raise]
  case h_8 hu =>
    rw [hu]
    obtain ⟨q, -, rfl⟩ := Option.map_eq_some_iff.mp h
    unfold uData
    split <;> cases q <;> simp [raise, setAdc]
  case h_9 hu => rw [hu]; cases h; simp [uClose]
  case h_10 hu => rw [hu]; cases h; simp [uAbort]
  case h_11 hu => rw [hu]; cases h; simp [uCompT]
  case h_12 hu => rw [hu]; cases h; simp [uCompP]

/-- A property of the block that holds after acceptance and that every micro-step keeps holds however far the command has run. -/
theorem exec_invariant {P : Block → Prop} {i : Instr} {s t : State} (hb : s.blk.busy = false) (h : exec i s = .next t)
    (accepted : P (acceptLegal (encode i) (firstStage i) s.blk))
    (keeps : ∀ b b' a, P b → b.busy = true → effectOf a b = some b' → P b') : P t.blk := by
  rw [exec_idle hb] at h
  refine runEngine_invariant (P := fun s => P s.blk) (fun u v hu huv => ?_) accepted h
  rcases engineStep_cases huv with rfl | ⟨b, hb, ⟨-, hf, rfl⟩ | ⟨e, -, -, hf, rfl⟩ | ⟨e, a, rest, -, -, -, hf, rfl⟩⟩
  · exact hu
  all_goals exact keeps _ _ _ hu hb hf

/-- A command leaves the inputs and the replies alone, and uses up its room. -/
theorem exec_keeps_outside {i : Instr} {s t : State} (hb : s.blk.busy = false) (h : exec i s = .next t) :
    t.inputs = s.inputs ∧ t.room = 0 ∧ t.replies = s.replies := by
  rw [exec_idle hb] at h
  exact runEngine_keeps_outside h

end Sys2Proof.Machine
end

