-- ==== Sys2Proof/Laws/PerInstr.lean ====
section
/-! SUPPORT. The family `EncodesLegal`: one lemma per command. -/

namespace Sys2Proof.Laws.EncodesLegal

/-- The word of a command is legal, whatever its ACC: OPC is the command's opcode, and bit 3 is 0 (R50, R51, R53). -/
def Statement (i : Instr) : Prop :=
  opcField (encode i) = opcode i ∧ (encode i).getLsbD 3 = false ∧ ∃ j, decode (encode i) = .ok j ∧ opcode j = opcode i

/-- The measuring commands, for each of the eight ACC values. -/
theorem measuring_words (acc : BitVec 3) :
    (decode (3#4 ++ (0#1 ++ acc)) = .ok (.rdut (accuracyOf acc)) ∧
      decode (4#4 ++ (0#1 ++ acc)) = .ok (.rdup (accuracyOf acc)) ∧
      decode (5#4 ++ (0#1 ++ acc)) = .ok (.rdpa (accuracyOf acc))) ∧
    ∀ opc : BitVec 4, opcField (opc ++ (0#1 ++ acc)) = opc ∧ (opc ++ (0#1 ++ acc)).getLsbD 3 = false := by
  revert acc
  decide

theorem verify : Statement .verify := ⟨rfl, rfl, .verify, rfl, rfl⟩

theorem calib : Statement .calib := ⟨rfl, rfl, .calib, rfl, rfl⟩

theorem rdut (acc : Accuracy) : Statement (.rdut acc) :=
  let h := measuring_words (accBits acc)
  ⟨(h.2 3).1, (h.2 3).2, _, h.1.1, rfl⟩

theorem rdup (acc : Accuracy) : Statement (.rdup acc) :=
  let h := measuring_words (accBits acc)
  ⟨(h.2 4).1, (h.2 4).2, _, h.1.2.1, rfl⟩

theorem rdpa (acc : Accuracy) : Statement (.rdpa acc) :=
  let h := measuring_words (accBits acc)
  ⟨(h.2 5).1, (h.2 5).2, _, h.1.2.2, rfl⟩

theorem compt : Statement .compt := ⟨rfl, rfl, .compt, rfl, rfl⟩

theorem compp : Statement .compp := ⟨rfl, rfl, .compp, rfl, rfl⟩

end Sys2Proof.Laws.EncodesLegal
end

