-- ==== Sys2Proof/Laws/Stages.lean ====
section
/-! SUPPORT. Runs of the engine through the poll loop and through a whole measurement stage, as equations: what remains of a run
of `k + m` steps after the `k` of the loop or the stage. -/

namespace Sys2Proof.Machine

/-- `n` busy status reads that leave budget: the loop is back at U_POLL, `n` more reads counted. -/
theorem runEngine_busy_polls (vs : List Byte) (hv : ∀ v ∈ vs, measuring v = true) :
    ∀ {s : State} {k m : Nat} {rest : List Answer}, s.blk.busy = true → s.blk.upc = .uPoll →
      s.blk.pollCnt = BitVec.ofNat 5 k → k + vs.length ≤ 29 →
      s.answers = vs.map (fun v => .ok [v]) ++ rest →
      runEngine (2 * vs.length + m) s = runEngine m { s with
        answers := rest
        trace := s.trace ++ vs.flatMap busyExchanges
        blk := { s.blk with
          phase := if vs = [] then s.blk.phase else .polling
          pollCnt := BitVec.ofNat 5 (k + vs.length) } } := by
  induction vs with
  | nil =>
    intro s k m rest hb hu hc hk ha
    have : s.answers = rest := by simpa using ha
    cases s; cases this
    simp only [List.length_nil, Nat.mul_zero, Nat.zero_add, Nat.add_zero, if_true, List.flatMap_nil, List.append_nil]
    rw [← hc]
  | cons v vs ih =>
    intro s k m rest hb hu hc hk ha
    have hm : measuring v = true := hv v (by simp)
    have hlen : (v :: vs).length = vs.length + 1 := rfl
    have hcnt : (s.blk.pollCnt + 1).toNat < 30 := by
      rw [hc, pollCnt_succ, pollCnt_toNat (by omega)]; omega
    rw [show 2 * (v :: vs).length + m = (2 * vs.length + m + 1) + 1 by omega]
    refine (runEngine_succ (engineStep_poll (v := v) hb hu (by simpa using ha))).trans ?_
    refine (runEngine_succ (engineStep_delay ?_ ?_)).trans ?_
    · exact hb
    · simp [hm]
    rw [uDelay_retry (by simpa using hcnt)]
    refine (ih (fun w hw => hv w (by simp [hw])) (k := k + 1) (rest := rest) ?_ ?_ ?_ ?_ ?_).trans ?_
    · exact hb
    · rfl
    · rw [← pollCnt_succ, ← hc]
    · omega
    · rfl
    simp only [busyExchanges, hlen, List.flatMap_cons, List.append_assoc, List.cons_append, List.nil_append]
    rw [show k + 1 + vs.length = k + (vs.length + 1) by omega]
    congr 3
    · simp
    · exact hu.symm

/-- The poll loop of a script that ends in the data read, from U_POLL with nothing counted. -/
theorem runEngine_polls {p : PollScript} (hp : p.ends) {s : State} {m : Nat} {rest : List Answer}
    (hb : s.blk.busy = true) (hu : s.blk.upc = .uPoll) (hc : s.blk.pollCnt = 0)
    (ht : p.clearByte = none → s.blk.timeoutEn = false) (ha : s.answers = p.answers ++ rest) :
    runEngine (2 * p.busyBytes.length + p.clearByte.toList.length + m) s = runEngine m { s with
      answers := rest
      trace := s.trace ++ p.exchanges
      blk := { s.blk with
        phase := .polling
        pollCnt := BitVec.ofNat 5 p.reads
        pollExhausted := s.blk.pollExhausted || p.clearByte.isNone
        upc := .uData } } := by
  obtain ⟨vs, last⟩ := p
  obtain ⟨hv, hl⟩ := hp
  cases last with
  | some v =>
    simp only at hl hv
    simp only [Option.toList_some, List.length_singleton]
    rw [show 2 * vs.length + 1 + m = 2 * vs.length + (m + 1) by omega]
    rw [runEngine_busy_polls vs hv (k := 0) (rest := .ok [v] :: rest) hb hu hc (by omega)
      (by simpa [PollScript.answers] using ha)]
    refine (runEngine_succ (engineStep_poll (v := v) ?_ ?_ rfl)).trans ?_
    · exact hb
    · exact hu
    simp [PollScript.exchanges, PollScript.reads, hl.1, pollCnt_succ_ofNat]
  | none =>
    simp only at hl hv
    obtain ⟨w, ws, rfl⟩ : ∃ w ws, vs = ws ++ [w] := by
      have hne : vs ≠ [] := by intro h; simp [h] at hl
      exact ⟨vs.getLast hne, vs.dropLast, (List.dropLast_append_getLast hne).symm⟩
    have hws : ws.length = 29 := by simpa using hl
    have hwm : measuring w = true := hv w (by simp)
    simp only [Option.toList_none, List.length_nil, List.length_append, List.length_singleton]
    rw [show 2 * (ws.length + 1) + 0 + m = 2 * ws.length + (m + 1 + 1) by omega]
    rw [runEngine_busy_polls ws (fun u hu => hv u (by simp [hu])) (k := 0) (rest := .ok [w] :: rest) hb hu hc (by omega)
      (by simpa [PollScript.answers] using ha)]
    refine (runEngine_succ (engineStep_poll (v := w) ?_ ?_ rfl)).trans ?_
    · exact hb
    · exact hu
    refine (runEngine_succ (engineStep_delay ?_ ?_)).trans ?_
    · exact hb
    · simp [hwm]
    rw [uDelay_proceed (by simp [hws]) (by exact ht rfl)]
    simp [PollScript.exchanges, PollScript.reads, busyExchanges, hws]

/-- A poll loop that uses up its budget with TIMEOUT_EN = 1 raises TimeoutError. -/
theorem runEngine_polls_timeout {vs : List Byte} (hl : vs.length = 30) (hv : ∀ v ∈ vs, measuring v = true) {s : State}
    {m : Nat} {rest : List Answer} (hb : s.blk.busy = true) (hu : s.blk.upc = .uPoll) (hc : s.blk.pollCnt = 0)
    (ht : s.blk.timeoutEn = true) (ha : s.answers = vs.map (fun v => .ok [v]) ++ rest) :
    runEngine (60 + m) s = runEngine m { s with
      answers := rest
      trace := s.trace ++ vs.flatMap busyExchanges
      blk := { s.blk with
        phase := .polling
        pollCnt := 30
        pollExhausted := true
        errCode := .timeoutError
        upc := .uAbort } } := by
  obtain ⟨w, ws, rfl⟩ : ∃ w ws, vs = ws ++ [w] := by
    have hne : vs ≠ [] := by intro h; simp [h] at hl
    exact ⟨vs.getLast hne, vs.dropLast, (List.dropLast_append_getLast hne).symm⟩
  have hws : ws.length = 29 := by simpa using hl
  have hwm : measuring w = true := hv w (by simp)
  rw [show 60 + m = 2 * ws.length + (m + 1 + 1) by omega]
  rw [runEngine_busy_polls ws (fun u hu => hv u (by simp [hu])) (k := 0) (rest := .ok [w] :: rest) hb hu hc (by omega)
    (by simpa using ha)]
  refine (runEngine_succ (engineStep_poll (v := w) ?_ ?_ rfl)).trans ?_
  · exact hb
  · exact hu
  refine (runEngine_succ (engineStep_delay ?_ ?_)).trans ?_
  · exact hb
  · simp [hwm]
  rw [uDelay_timeout (by simp [hws]) (by exact ht)]
  simp [busyExchanges, hws]

/-- A measurement stage up to its data read: open, trigger, poll loop. -/
theorem runEngine_measure_to_data {p : PollScript} (hp : p.ends) {q : Quantity} {st : Stage} {s : State} {m : Nat}
    {rest : List Answer} (hb : s.blk.busy = true) (hu : s.blk.upc = .uOpen) (hst : currentStage s.blk = some st)
    (hq : st.quantity = some q) (ht : p.clearByte = none → s.blk.timeoutEn = false)
    (ha : s.answers = [.ok [], .ok []] ++ p.answers ++ rest) :
    runEngine (2 * p.busyBytes.length + p.clearByte.toList.length + 2 + m) s = runEngine m { s with
      answers := rest
      trace := s.trace ++ ([⟨.busOpen s.blk.busAddr, some (.ok [])⟩,
        ⟨.busWrite 0xF4 (ctrlByte q s.blk.osrs), some (.ok [])⟩] ++ p.exchanges)
      blk := { s.blk with
        handleOpen := true
        phase := .polling
        pollCnt := BitVec.ofNat 5 p.reads
        pollExhausted := s.blk.pollExhausted || p.clearByte.isNone
        upc := .uData } } := by
  have hopen : afterOpen st = some .uTrig := by
    cases st <;> simp [Stage.quantity] at hq <;> rfl
  have hcq : currentQuantity s.blk = some q := by simp [currentQuantity, hst, hq]
  rw [show 2 * p.busyBytes.length + p.clearByte.toList.length + 2 + m =
    (2 * p.busyBytes.length + p.clearByte.toList.length + m + 1) + 1 by omega]
  rw [runEngine_succ (engineStep_open_ok (next := .uTrig) (x := []) hb hu (by simp [hst, hopen]) (by simpa using ha))]
  refine (runEngine_succ (engineStep_trig (q := q) (x := []) ?_ rfl ?_ rfl)).trans ?_
  · exact hb
  · exact hcq
  refine (runEngine_polls hp (rest := rest) ?_ rfl rfl ?_ rfl).trans ?_
  · exact hb
  · exact ht
  simp

/-- A whole measurement stage on the success path (R99): what is left is the stage advance of `U_CLOSE`. -/
theorem runEngine_measure_stage {p : PollScript} (hp : p.ends) {q : Quantity} {st : Stage} {b0 b1 b2 : Byte} {s : State}
    {m : Nat} {rest : List Answer} (hb : s.blk.busy = true) (hu : s.blk.upc = .uOpen)
    (hst : currentStage s.blk = some st) (hq : st.quantity = some q)
    (ht : p.clearByte = none → s.blk.timeoutEn = false) (ha : s.answers = measureAnswers p b0 b1 b2 ++ rest) :
    runEngine (p.stageSteps + m) s = runEngine m { s with
      answers := rest
      trace := s.trace ++ measureExchanges s.blk.busAddr q s.blk.osrs p b0 b1 b2
      blk := stageDone { setAdc q ((decodeRaw b0 b1 b2).setWidth 32) s.blk with
        handleOpen := false
        phase := .polling
        pollCnt := BitVec.ofNat 5 p.reads
        pollExhausted := s.blk.pollExhausted || p.clearByte.isNone
        upc := .uClose } } := by
  rw [show p.stageSteps + m = 2 * p.busyBytes.length + p.clearByte.toList.length + 2 + (m + 1 + 1) by
    simp [PollScript.stageSteps]; omega]
  rw [runEngine_measure_to_data hp (rest := .ok [b0, b1, b2] :: rest) hb hu hst hq ht
    (by simpa [measureAnswers] using ha)]
  have hcq : currentQuantity s.blk = some q := by simp [currentQuantity, hst, hq]
  refine (runEngine_succ (engineStep_data (q := q) (b0 := b0) (b1 := b1) (b2 := b2) ?_ rfl ?_ rfl)).trans ?_
  · exact hb
  · exact hcq
  refine (runEngine_succ (engineStep_close ?_ rfl)).trans ?_
  · cases q <;> exact hb
  cases q <;> simp [measureExchanges, setAdc]

/-- A calibration stage on the success path: what is left is the stage advance of `U_CLOSE`. -/
theorem runEngine_calibration_stage {bs : List Byte} {s : State} {m : Nat} {rest : List Answer} (hb : s.blk.busy = true)
    (hu : s.blk.upc = .uOpen) (hst : currentStage s.blk = some .sCal) (hl : bs.length = 24)
    (ha : s.answers = [.ok [], .ok bs] ++ rest) :
    runEngine (m + 1 + 1 + 1) s = runEngine m { s with
      answers := rest
      trace := s.trace ++
        [⟨.busOpen s.blk.busAddr, some (.ok [])⟩, ⟨.busRead 0x88 24, some (.ok bs)⟩, ⟨.busClose, none⟩]
      blk := stageDone { s.blk with handleOpen := false, cal := decodeCal bs, calLoaded := true, upc := .uClose } } := by
  rw [runEngine_succ (engineStep_open_ok (next := .uRdcal) (x := []) hb hu (by rw [hst]; rfl) (by simpa using ha))]
  refine (runEngine_succ (engineStep_rdcal (bs := bs) ?_ rfl hl rfl)).trans ?_
  · exact hb
  refine (runEngine_succ (engineStep_close ?_ rfl)).trans ?_
  · exact hb
  simp

/-- The two compute stages of `RDPA`, as one run of two steps. -/
theorem runEngine_compensate {s : State} {m : Nat} (hb : s.blk.busy = true) (hu : s.blk.upc = .uCompT) (ho : s.blk.op = 5)
    (hs : s.blk.stage = 3) :
    runEngine (m + 1 + 1) s =
      (let r := compT (tempOperands s.blk)
       let w := compP (pressOperands { s.blk with tFine := r.1 })
       .next { s with
        blk := { s.blk with
          stage := 4
          busy := false
          done := true
          phase := .complete
          upc := .uNone
          fineValid := true
          tFine := r.1
          tOut := r.2
          pOut := w.1
          errCode := if w.2 then .invalidCalibration else s.blk.errCode } }) := by
  rw [runEngine_succ (engineStep_compT hb hu)]
  unfold uCompT
  rw [stageDone_next (st := .sCompP) (by rw [ho, hs]; rfl)]
  rw [runEngine_succ (engineStep_compP (by exact hb) (by rfl))]
  have hlast : (stageList s.blk.op)[(s.blk.stage + 1).toNat + 1]? = none := by rw [ho, hs]; rfl
  unfold uCompP
  rw [stageDone_last (by exact hlast), runEngine_idle (by rfl)]
  simp [finishOk, enterStage, pressOperands, hs]
  congr

end Sys2Proof.Machine
end

