-- ==== Sys2Proof/Tests/Slice0.lean ====
section
/-! SUPPORT. The tests. Expected results come from the spec: the encodings of opcode_table.json and 30_encoding.md, and the vectors
of 95_test_vectors.md (their row names stand in the docstrings). The second half shows, for every statement with hypotheses,
concrete states and operands that meet them. -/

namespace Sys2Proof.Tests

open Sys2Proof Sys2Proof.Machine

/-! ## Helpers -/

/-- The next state, if there is one. -/
def after (o : Host.Outcome State Fault Refusal) : Option State :=
  match o with
  | .next t => some t
  | .fault _ => none
  | .refused _ => none

/-- A state about to take a write of `CMD`, with room for the whole command. -/
def writing (b : Block) (w : Word) (answers : List Answer) : State :=
  { State.reset with blk := b, inputs := [⟨.write 0 w, commandRoom⟩], answers := answers }

/-- Reset, with a bus address. -/
def atAddress (a : BitVec 7) : Block := { Block.reset with busAddr := a }

/-- What a test looks at: STATUS, ERRCODE and the trace. -/
def view (t : State) : Word × Word × List Exchange := (hostRead 1 t.blk, hostRead 2 t.blk, t.trace)

/-- The calibration block of 95_test_vectors.md section 2.6. -/
def exampleBlock : List Byte :=
  [0x70, 0x6B, 0x43, 0x67, 0x18, 0xFC, 0x7D, 0x8E, 0x43, 0xD6, 0xD0, 0x0B] ++
  [0x27, 0x0B, 0x8C, 0x00, 0xF9, 0xFF, 0x8C, 0x3C, 0xF8, 0xC6, 0x70, 0x17]

/-- What it decodes to. -/
def exampleCal : Cal :=
  ⟨0x6B70, 0x6743, 0xFC18, 0x8E7D, 0xD643, 0x0BD0, 0x0B27, 0x008C, 0xFFF9, 0x3C8C, 0xC6F8, 0x1770⟩

/-- `BusOpen(a)->Ok` -/
def opened (a : BitVec 7) : Exchange := ⟨.busOpen a, some (.ok [])⟩

/-- `BusRead(r,n)->[bytes]` -/
def gave (r : Byte) (n : Nat) (bytes : List Byte) : Exchange := ⟨.busRead r n, some (.ok bytes)⟩

/-- `BusWrite(0xF4,[v])->Ok` -/
def triggered (v : Byte) : Exchange := ⟨.busWrite 0xF4 v, some (.ok [])⟩

/-- `BusClose()` -/
def closed : Exchange := ⟨.busClose, none⟩

/-- `Delay` -/
def delayed : Exchange := ⟨.delay, none⟩

/-! ## Well-formedness -/

theorem smoke_unrecognized_must_have_no_symbol :
    (Accuracy.unrecognized 4).wf = false ∧ (Instr.rdut (.unrecognized 0)).wf = false ∧
      (Instr.rdup (.unrecognized 3)).wf = false ∧ (Instr.rdpa (.unrecognized 4)).wf = false := by decide

/-! ## Decoding: words written bit by bit from the opcode table -/

theorem test_decode_verify : decode 0b00010000 = .ok .verify := by decide

theorem test_decode_calib : decode 0b00100000 = .ok .calib := by decide

theorem test_decode_rdut :
    decode 0b00110000 = .ok (.rdut .ultraLow) ∧ decode 0b00110100 = .ok (.rdut .ultraHigh) ∧
      decode 0b00110101 = .ok (.rdut (.unrecognized 5)) := by decide

theorem test_decode_rdup :
    decode 0b01000001 = .ok (.rdup .low) ∧ decode 0b01000111 = .ok (.rdup (.unrecognized 7)) := by decide

theorem test_decode_rdpa :
    decode 0b01010010 = .ok (.rdpa .standard) ∧ decode 0b01010011 = .ok (.rdpa .high) := by decide

theorem test_decode_compt : decode 0b01100000 = .ok .compt := by decide

theorem test_decode_compp : decode 0b01110000 = .ok .compp := by decide

/-- The illegal words of section 2.6. -/
theorem test_decode_rejects :
    decode 0x00 = .error .reservedOpcode ∧ decode 0x80 = .error .reservedOpcode ∧ decode 0xFF = .error .reservedOpcode ∧
      decode 0x11 = .error .operandNotZero ∧ decode 0x2F = .error .operandNotZero ∧
      decode 0x61 = .error .operandNotZero ∧ decode 0x78 = .error .operandNotZero ∧
      decode 0x38 = .error .bitThreeSet ∧ decode 0x4F = .error .bitThreeSet ∧ decode 0x58 = .error .bitThreeSet := by
  decide

/-- The host's question: a table word becomes the first instruction after reset. -/
theorem test_fetch_word :
    decodeTableWord 8 0x33 = some (.rdut .high) ∧ decodeTableWord 8 0x80 = none ∧
      after (step (State.reset.withFetchWord 8 0x60)) = after (exec .compt { State.reset with room := commandRoom }) := by
  decide

/-! ## Operands and arithmetic -/

/-- Rows of section 2.5. -/
theorem test_primitives :
    (wrap32 4294803457).toInt = -163839 ∧ (wrap32 (-4294770690)).toInt = 196606 ∧
      (mul32 65535 65535).toInt = -131071 ∧ (mul32 131071 (wrap32 (-32768))).toInt = 32768 ∧
      (asr32 (wrap32 (-6076000)) 14).toInt = -371 ∧ (asr32 (wrap32 (-4094)) 11).toInt = -2 ∧
      lsr32 0x86A00000 3 = 0x10D40000 ∧ umul32 0x10D40000 0x10D40000 = 0 ∧ (wrap32 (-62840)).toNat = 4294904456 ∧
      udiv32 3673406250 36471 = 100721 ∧ shl32 2855 16 = 187105280 ∧ (sext32 0xFC18).toInt = -1000 ∧
      (zext32 0x8E7D).toInt = 36477 := by decide

/-- Rows of section 2.4. -/
theorem test_divide :
    divide 0x7FFFFFFF 1 = 0xFFFFFFFE ∧ divide 0x80000000 1 = 0 ∧ divide 0x80000000 2 = 0x80000000 ∧
      divide 0x80000001 2 = 0x80000000 ∧ divide 0xFFFFFFFF 3 = 0xAAAAAAAA ∧ divide 1836703125 (wrap32 (-1)) = 0 ∧
      divide 1000 3 = 666 := by decide

/-- The calibration block, the raw values and the status bytes of section 2.6. -/
theorem test_wire_formats :
    decodeCal exampleBlock = exampleCal ∧ decodeRaw 0x65 0x5A 0xC0 = 415148 ∧ decodeRaw 0x00 0x00 0x10 = 1 ∧
      [0x00, 0x08, 0xF7, 0xFF, 0x01].map measuring = [false, true, false, true, false] := by decide

/-! ## One command, one step -/

/-- Row V1 -/
theorem test_verify_match :
    (after (step (writing (atAddress 0x77) 0x10 [.ok [], .ok [0x58]]))).map view =
      some (0x322, 0, [opened 0x77, gave 0xD0 1 [0x58], closed]) := by decide

/-- Row V6: all eight bits are compared. -/
theorem test_verify_mismatch :
    (after (step (writing (atAddress 0x77) 0x10 [.ok [], .ok [0xD8]]))).map view =
      some (0x302, 3, [opened 0x77, gave 0xD0 1 [0xD8], closed]) := by decide

/-- Row K1 -/
theorem test_calib :
    (after (step (writing (atAddress 0x77) 0x20 [.ok [], .ok exampleBlock]))).map
        (fun t => (view t, t.blk.cal)) =
      some ((0x30A, 0, [opened 0x77, gave 0x88 24 exampleBlock, closed]), exampleCal) := by decide

/-- Row K2: a failed read keeps the old store, and CAL_LOADED. -/
theorem test_calib_read_fails :
    (after (step (writing { atAddress 0x77 with calLoaded := true, cal := exampleCal } 0x20 [.ok [], .err]))).map
        (fun t => (view t, t.blk.cal)) =
      some ((0x40E, 2, [opened 0x77, ⟨.busRead 0x88 24, some .err⟩, closed]), exampleCal) := by decide

/-- Row M2 -/
theorem test_rdut :
    (after (step (writing (atAddress 0x76) 0x33
        [.ok [], .ok [], .ok [0x08], .ok [0x00], .ok [0x7E, 0xED, 0x00]]))).map
        (fun t => (view t, t.blk.adcT, t.blk.pollCnt)) =
      some ((0x302, 0, [opened 0x76, triggered 0x81, gave 0xF3 1 [0x08], delayed, gave 0xF3 1 [0x00],
        gave 0xFA 3 [0x7E, 0xED, 0x00], closed]), 0x7EED0, 2) := by decide

/-- Row M5: the poll budget runs out with TIMEOUT_EN = 1. -/
theorem test_rdut_timeout :
    (after (step (writing { atAddress 0x76 with timeoutEn := true } 0x33
        ([.ok [], .ok []] ++ List.replicate 30 (.ok [0x08]))))).map view =
      some (0x446, 5, [opened 0x76, triggered 0x81] ++
        (List.replicate 30 [gave 0xF3 1 [0x08], delayed]).flatten ++ [closed]) := by decide +kernel

/-- Row M3 -/
theorem test_rdup :
    (after (step (writing (atAddress 0x76) 0x47 [.ok [], .ok [], .ok [0x00], .ok [0x65, 0x5A, 0xC0]]))).map
        (fun t => (view t, t.blk.adcT, t.blk.adcP)) =
      some ((0x302, 0, [opened 0x76, triggered 0x05, gave 0xF3 1 [0x00], gave 0xF7 3 [0x65, 0x5A, 0xC0], closed]),
        0, 0x655AC) := by decide

/-- Row M9: the data read fails. -/
theorem test_rdup_data_fails :
    (after (step (writing (atAddress 0x76) 0x47 [.ok [], .ok [], .ok [0x00], .err]))).map view =
      some (0x406, 2, [opened 0x76, triggered 0x05, gave 0xF3 1 [0x00], ⟨.busRead 0xF7 3, some .err⟩, closed]) := by decide

/-- Row A3: every status read busy, TIMEOUT_EN = 0: 133 micro-steps, 131 events. -/
theorem test_rdpa_longest :
    (after (step (writing (atAddress 0x76) 0x52
        (measureAnswers ⟨List.replicate 30 0x08, none⟩ 0x7E 0xED 0x00 ++
          measureAnswers ⟨List.replicate 30 0x08, none⟩ 0x65 0x5A 0xC0 ++ [.ok [], .ok exampleBlock])))).map
        (fun t => (hostRead 1 t.blk, t.trace.length, t.blk.tFine, t.blk.tOut, t.blk.pOut)) =
      some (0x35A, 131, 0x0001F5A6, 0x9CC, 0x00018930) := by decide +kernel

/-- Row A5: the second open fails; the older results stay. -/
theorem test_rdpa_second_open_fails :
    (after (step (writing { atAddress 0x76 with tOut := 0x2222, pOut := 0x1111 } 0x50
        [.ok [], .ok [], .ok [0x00], .ok [0x7E, 0xED, 0x00], .err]))).map
        (fun t => (view t, t.blk.adcT, t.blk.tOut, t.blk.pOut)) =
      some ((0x406, 1, [opened 0x76, triggered 0x21, gave 0xF3 1 [0x00], gave 0xFA 3 [0x7E, 0xED, 0x00], closed,
        ⟨.busOpen 0x76, some .err⟩]), 0x7EED0, 0x2222, 0x1111) := by decide

/-- Row T9: both products wrap. -/
theorem test_compt_wraps :
    (after (step (writing { Block.reset with adcT := 0xFFFFF, cal := { Cal.reset with t2 := 32767, t3 := 32767 } }
        0x60 []))).map (fun t => (view t, t.blk.tFine, t.blk.tOut)) =
      some ((0x312, 0, []), 0xFFFFFF70, 0xFFFFFFFD) := by decide

/-- Row T17: a host-written ADC_T is read signed. -/
theorem test_compt_negative_operand :
    (after (step (writing { Block.reset with adcT := 0xFFFFFFFF, cal := exampleCal } 0x60 []))).map
        (fun t => (t.blk.tFine, t.blk.tOut)) =
      some (0xFFF4FE5D, 0xFFFFC8F8) := by decide

/-- Row P13: a negative `var1` divides as an unsigned number. -/
theorem test_compp_negative_divisor :
    (after (step (writing { Block.reset with adcP := 415148, cal := { exampleCal with p1 := 65535 } } 0x70 []))).map
        (fun t => (view t, t.blk.pOut)) =
      some ((0x302, 0, []), 968) := by decide

/-- Row P11: `PCorr` on a pressure accumulator of 2^31 and more. -/
theorem test_compp_large_accumulator :
    (after (step (writing
        { Block.reset with
          cal := { Cal.reset with p1 := 1, p7 := 15500, p8 := BitVec.ofInt 16 (-14600), p9 := 6000 } } 0x70 []))).map
        (fun t => t.blk.pOut) =
      some 2258618664 := by decide

/-! ## The host's accesses -/

/-- Rows H6 to H9, and a write while busy (H5). -/
theorem test_host_writes :
    storeReg 0x08 5 Block.reset = Block.reset ∧ storeReg 0x01 0x7FF Block.reset = Block.reset ∧
      storeReg 0x0C 1 Block.reset = Block.reset ∧ (storeReg 0x10 0xFFFF6B70 Block.reset).cal.t1 = 0x6B70 ∧
      hostRead 0x10 (storeReg 0x10 0xFFFF6B70 Block.reset) = 0x00006B70 ∧
      (storeReg 0x04 0x1F6 Block.reset).busAddr = 0x76 ∧ hostRead 0x03 (storeReg 0x03 0xFFFFFFFF Block.reset) = 1 ∧
      hostWriteReg 0x05 123 { Block.reset with busy := true } = { Block.reset with busy := true } := by decide

/-- Row H4: a command written while RDUT runs is dropped. -/
theorem test_command_while_busy :
    (after (step { State.reset with
      blk := { Block.reset with cmd := 0x30, op := 3, osrs := 1, busy := true, handleOpen := true, upc := .uTrig }
      inputs := [⟨.write 0 0x70, 0⟩] })).map (fun t => (t.blk.cmd, t.blk.op, t.blk.busy)) = some (0x30, 3, true) := by decide

/-- Row H2, and bits 31:8 of the data being ignored (section 2.6). -/
theorem test_illegal_word :
    (after (step (writing Block.reset 0x38 []))).map (fun t => (view t, t.blk.cmd)) = some ((0x406, 6, []), 0x38) ∧
      (after (step { writing Block.reset 0xABCD1234 [] with inputs := [⟨.write 0 0xABCD1234, 0⟩] })).map
        (fun t => (t.blk.op, t.blk.osrs, t.blk.busy)) = some (3, 5, true) := by decide

/-- Row H11: reset from a busy block that holds the handle. -/
theorem test_reset_while_busy :
    (after (step { State.reset with
      blk := { Block.reset with cmd := 0x20, op := 2, osrs := 1, busy := true, handleOpen := true, upc := .uRdcal }
      inputs := [⟨.reset, 5⟩] })) = some State.reset := by decide

/-- `SETCAL` with a negative coefficient writes its 16-bit pattern, and `WAIT` goes on while BUSY = 1 (R60). -/
theorem test_host_program :
    (assemble 1 [.set (.cal 2) (-1000)]) = [⟨.write 0x12 0xFC18, 1⟩] ∧
      (after (step { State.reset with
        blk := { Block.reset with cmd := 0x60, op := 6, osrs := 1, busy := true, upc := .uCompT, phase := .running }
        inputs := assemble 0 [.wait] })).map (fun t => (t.inputs, t.replies)) = some ([⟨.wait, 0⟩], [0x501]) := by
  decide

/-! ## Witnesses: for every statement with hypotheses, states and operands that meet them -/

/-- A block in the middle of command `op`, about to run `u`. -/
def running (op : BitVec 4) (stage : BitVec 3) (u : Upc) : Block :=
  { Block.reset with
    cmd := op ++ 0#4, op := op, osrs := 1, stage := stage, upc := u, busy := true, handleOpen := decide (u ∈ handlePositions) }

/-- A state with that block, no input to come, and these answers. -/
def engineAt (b : Block) (answers : List Answer) : State := { State.reset with blk := b, answers := answers }

/-- A state about to take one input. -/
def facing (b : Block) (x : Input) (room : Nat) : State := { State.reset with blk := b, inputs := [⟨x, room⟩] }

/-- An idle state with room for a command. -/
def ready (room : Nat) (answers : List Answer) : State := { State.reset with room := room, answers := answers }

/-- A poll loop with one busy read. -/
def oneBusy : PollScript := ⟨[0x08], some 0x00⟩

/-- The boundary scripts: clear at the first read, clear at the thirtieth, never clear. -/
def scripts : List PollScript := [⟨[], some 0xF7⟩, ⟨List.replicate 29 0x08, some 0⟩, ⟨List.replicate 30 0xFF, none⟩]

theorem scripts_end : ∀ p ∈ scripts, p.ends := by
  simp [scripts, PollScript.ends, measuring]

theorem reset_inv : Inv Block.reset := by
  constructor <;> decide

/-- A measurement about to poll for the thirtieth time, and one about to wait after it, meet the invariant. -/
theorem running_inv :
    Inv { running 3 0 .uPoll with pollCnt := 29 } ∧ Inv { running 5 1 .uDelay with pollCnt := 30 } ∧
      Inv (running 1 0 .uOpen) ∧ Inv (running 2 0 .uClose) ∧ Inv (running 5 4 .uCompP) ∧
      Inv { running 4 0 .uAbort with errCode := .timeoutError } := by
  refine ⟨?_, ?_, ?_, ?_, ?_, ?_⟩ <;> constructor <;> decide

theorem witness_illegal_words :
    (∀ i, decode 0x00 ≠ .ok i) ∧ (∀ i, decode 0x8F ≠ .ok i) ∧ (∀ i, decode 0x11 ≠ .ok i) ∧ (∀ i, decode 0x5F ≠ .ok i) ∧
      (facing Block.reset (.write 0 0x38) 133).inputs = [⟨.write 0 ((0x38 : Byte).setWidth 32), 133⟩] ∧
      decode ((0x38 : Word).setWidth 8) = .error .bitThreeSet := by
  refine ⟨?_, ?_, ?_, ?_, rfl, rfl⟩ <;> intro i h <;> cases h

theorem witness_DecodeAndEncodeAgree :
    (Instr.rdut (.unrecognized 5)).wf = true ∧ (Instr.rdpa (.unrecognized 7)).wf = true ∧ Instr.verify.wf = true ∧
      decode 0x45 = .ok (.rdup (.unrecognized 5)) ∧ decode 0x57 = .ok (.rdpa (.unrecognized 7)) := by decide

theorem witness_StepRunsTheDecodedCommand :
    (facing Block.reset (.write 0 0xABCD1234) 133).inputs = [⟨.write 0 0xABCD1234, 133⟩] ∧
      decode ((0xABCD1234 : Word).setWidth 8) = .ok (.rdut .ultraHigh) := by decide

theorem witness_CommandWriteIsAcceptedOnlyWhenIdle :
    ((facing (running 3 0 .uTrig) (.write 0 0x70) 0).inputs = [⟨.write 0 0x70, 0⟩] ∧
      (facing (running 3 0 .uTrig) (.write 0 0x70) 0).blk.busy = true) ∧
    (facing Block.reset (.write 0 0x00) 0).blk.busy = false ∧ decode ((0x00 : Word).setWidth 8) = .error .reservedOpcode ∧
    [0x10, 0x20, 0x37, 0x40, 0x50, 0x60, 0x70].map (fun v : Word => decode (v.setWidth 8)) =
      [.ok .verify, .ok .calib, .ok (.rdut (.unrecognized 7)), .ok (.rdup .ultraLow), .ok (.rdpa .ultraLow), .ok .compt,
        .ok .compp] := by decide

theorem witness_BusyBlockDropsEveryHostWrite :
    ([0x00, 0x05, 0x1B, 0x1F] : List (BitVec 5)).all (fun i =>
      decide ((facing (running 6 0 .uCompT) (.write i 7) 1).inputs = [⟨.write i 7, 1⟩])) = true ∧
      (running 6 0 .uCompT).busy = true := by decide

theorem witness_HostReadReturnsTheRegister :
    (facing (running 1 0 .uRdid) (.read 0x1F) 0).inputs = [⟨.read 0x1F, 0⟩] := by decide

/-- Every boundary of the host's register map. -/
theorem witness_HostWriteStoresTheLowBits :
    Block.reset.busy = false ∧
    ([0x01, 0x02, 0x03, 0x07, 0x08, 0x0A, 0x0F, 0x10, 0x1B, 0x1C, 0x1F] : List (BitVec 5)).all (fun i =>
      decide (i ≠ 0) && decide ((facing Block.reset (.write i 0xFFFFFFFF) 0).inputs = [⟨.write i 0xFFFFFFFF, 0⟩])) = true := by
  decide

theorem witness_ResetWorksFromEveryState :
    (facing (running 2 0 .uRdcal) .reset 9).inputs = [⟨.reset, 9⟩] := by decide

theorem witness_HostProgramLinesExpandToAccesses :
    (Instr.rdpa .high).wf = true ∧
      { State.reset with inputs := assemble 133 [.cmd (.rdpa .high), .wait] }.inputs =
        assemble 133 [.cmd (.rdpa .high), .wait] ∧
      Block.reset.busy = false ∧ (running 2 0 .uOpen).busy = true ∧
      { State.reset with inputs := assemble 0 [.set (.cal 11) (-1), .get (.cal 11)] }.inputs =
        assemble 0 [.set (.cal 11) (-1), .get (.cal 11)] ∧
      Reg.cal 11 ≠ .cmd ∧ Reg.ctrl ≠ .cmd ∧ Reg.tOut ≠ .cmd ∧
      { State.reset with inputs := assemble 2 [.setCal #v[1, 2, 3, 4, 5, 6, 7, 8, 9, 10, 11, -12]] }.inputs =
        assemble 2 [.setCal #v[1, 2, 3, 4, 5, 6, 7, 8, 9, 10, 11, -12]] := by decide

theorem witness_EngineRestsWhenIdleAndWaitsForAnswers :
    (State.reset.inputs = [] ∧ State.reset.blk.busy = false) ∧
      (engineAt (running 1 0 .uRdid) []).outstanding = some (.busRead 0xD0 1) ∧ (engineAt (running 1 0 .uRdid) []).answers = [] :=
  by decide

theorem witness_EveryStepKeepsTheInvariant :
    Inv (facing Block.reset (.write 0 0x60) 1).blk ∧
      (after (step (facing Block.reset (.write 0 0x60) 1))).isSome = true :=
  ⟨reset_inv, by decide⟩

theorem witness_InvariantRulesOutTheFault : Inv (engineAt { running 3 0 .uPoll with pollCnt := 29 } [.err]).blk :=
  running_inv.1

/-- A block that holds its handle, and a command that opens one. -/
theorem witness_EveryStepButResetKeepsHandlesBalanced :
    (Inv (running 2 0 .uClose) ∧
      handlesBalanced { engineAt (running 2 0 .uClose) [] with trace := [opened 0, gave 0x88 24 exampleBlock] } ∧
      (after (step { engineAt (running 2 0 .uClose) [] with trace := [opened 0, gave 0x88 24 exampleBlock] })).isSome = true) ∧
    (handlesBalanced (writing Block.reset 0x10 [.ok [], .err]) ∧
      (∀ n rest, (writing Block.reset 0x10 [.ok [], .err]).inputs ≠ ⟨.reset, n⟩ :: rest) ∧
      (after (step (writing Block.reset 0x10 [.ok [], .err]))).isSome = true) :=
  ⟨⟨running_inv.2.2.2.1, by unfold handlesBalanced; decide, by decide⟩,
    by unfold handlesBalanced; decide, (by intro n rest h; cases h), by decide⟩

theorem witness_StepsIssueOnlyTheMappedAccesses :
    Inv (writing Block.reset 0x30 [.ok [], .ok [], .ok [0], .ok [1, 2, 3]]).blk ∧
      (after (step (writing Block.reset 0x30 [.ok [], .ok [], .ok [0], .ok [1, 2, 3]]))).map (fun t => t.trace.length) =
        some 5 :=
  ⟨reset_inv, by decide⟩

theorem witness_CommandRunsSplitAnywhere :
    (after (exec .verify { ready 0 [.ok [], .ok [0x58]] with room := 2 })).isSome = true := by decide

/-- Every bus stage, with either answer. -/
theorem witness_OpenMicroStep :
    ([(1, 0, .sId), (2, 0, .sCal), (3, 0, .sMeasT), (4, 0, .sMeasP), (5, 1, .sMeasP), (5, 2, .sCal)] :
      List (BitVec 4 × BitVec 3 × Stage)).all (fun x =>
        decide (currentStage (running x.1 x.2.1 .uOpen) = some x.2.2) && x.2.2.usesBus) = true ∧
      (engineAt (running 1 0 .uOpen) [.err]).answers = [.err] ∧ (running 1 0 .uOpen).busy = true ∧
      (running 1 0 .uOpen).upc = .uOpen := by decide

/-- A last stage and every stage that follows another. -/
theorem witness_CloseAndComputeMicroStepsAdvanceTheStage :
    (stageList (running 2 0 .uClose).op)[(running 2 0 .uClose).stage.toNat + 1]? = none ∧
      ([0, 1, 2, 3, 4] : List (BitVec 3)).map (fun n => (stageList 5)[n.toNat + 1]?) =
        [some .sMeasP, some .sCal, some .sCompT, some .sCompP, none] ∧
      (running 5 3 .uCompT).upc = .uCompT ∧ (running 7 0 .uCompP).upc = .uCompP ∧ (running 5 3 .uCompT).busy = true := by
  decide

/-- Each of the five reads and writes, the timeout, and the release. -/
theorem witness_FailureWithTheHandleReleasesItAndEndsTheCommand :
    eventOf (running 1 0 .uRdid) = some (.busRead 0xD0 1) ∧ eventOf (running 5 2 .uRdcal) = some (.busRead 0x88 24) ∧
      eventOf (running 3 0 .uPoll) = some (.busRead 0xF3 1) ∧ eventOf (running 4 0 .uData) = some (.busRead 0xF7 3) ∧
      eventOf (running 5 0 .uTrig) = some (.busWrite 0xF4 0x21) ∧
      failsRead 1 .err = true ∧ failsRead 24 (.ok []) = true ∧ failsRead 3 (.ok [1, 2]) = true ∧
      { running 3 0 .uDelay with pollCnt := 30, timeoutEn := true }.pollCnt.toNat = 30 ∧
      (running 3 0 .uAbort).upc = .uAbort ∧ (running 3 0 .uAbort).busy = true := by decide

theorem witness_ReadIdentityMicroStep :
    ((running 1 0 .uRdid).busy = true ∧ (running 1 0 .uRdid).upc = .uRdid ∧
      (engineAt (running 1 0 .uRdid) [.ok [0x58]]).answers = [.ok [0x58]]) ∧
      (0x59 : Byte) ≠ 0x58 ∧ (0xD8 : Byte) ≠ 0x58 ∧ failsRead 1 .err = true ∧ failsRead 1 (.ok [0x58, 0x58]) = true := by decide

theorem witness_ReadCalibrationMicroStep :
    ((running 5 2 .uRdcal).busy = true ∧ (running 5 2 .uRdcal).upc = .uRdcal ∧ exampleBlock.length = 24 ∧
      (engineAt (running 5 2 .uRdcal) [.ok exampleBlock]).answers = [.ok exampleBlock]) ∧
      failsRead 24 .err = true ∧ failsRead 24 (.ok (exampleBlock.take 23)) = true := by decide

/-- Both quantities. -/
theorem witness_TriggerMicroStep :
    currentQuantity (running 3 0 .uTrig) = some .temperature ∧ currentQuantity (running 5 1 .uTrig) = some .pressure ∧
      (running 5 1 .uTrig).busy = true ∧ (running 5 1 .uTrig).upc = .uTrig ∧
      (engineAt (running 5 1 .uTrig) [.err]).answers = [.err] := by decide

theorem witness_PollMicroStepTestsBitThree :
    ((running 3 0 .uPoll).busy = true ∧ (running 3 0 .uPoll).upc = .uPoll ∧
      (engineAt (running 3 0 .uPoll) [.ok [0xF7]]).answers = [.ok [0xF7]] ∧ failsRead 1 (.ok []) = true) ∧
      Inv { running 3 0 .uPoll with pollCnt := 29 } :=
  ⟨by decide, running_inv.1⟩

/-- The count just below the budget and at it, under both policies. -/
theorem witness_DelayMicroStepRetriesOrGivesUp :
    (running 4 0 .uDelay).busy = true ∧ (running 4 0 .uDelay).upc = .uDelay ∧
      { running 4 0 .uDelay with pollCnt := 29 }.pollCnt.toNat < 30 ∧
      { running 4 0 .uDelay with pollCnt := 30 }.pollCnt.toNat = 30 ∧
      { running 4 0 .uDelay with pollCnt := 30 }.timeoutEn = false ∧
      { running 4 0 .uDelay with pollCnt := 30, timeoutEn := true }.timeoutEn = true := by decide

theorem witness_DataMicroStepWritesTheRawValue :
    currentQuantity (running 5 0 .uData) = some .temperature ∧ currentQuantity (running 4 0 .uData) = some .pressure ∧
      (running 4 0 .uData).busy = true ∧ (running 4 0 .uData).upc = .uData ∧
      (engineAt (running 4 0 .uData) [.ok [0xFF, 0xFF, 0xFF]]).answers = [.ok [0xFF, 0xFF, 0xFF]] ∧
      failsRead 3 (.ok [0, 0]) = true := by decide

theorem witness_wire_formats :
    exampleBlock.length = 24 ∧ (0x7E : Byte).toNat / 16 = (0x70 : Byte).toNat / 16 ∧
      (4 : BitVec 3).toNat ≤ 4 ∧ 5 ≤ (5 : BitVec 3).toNat ∧
      (running 3 0 .uTrig).upc = .uTrig ∧ currentQuantity (running 3 0 .uTrig) = some .temperature := by decide

theorem witness_VerifyOnEveryCourseOfAnswers :
    (ready 3 [.ok [], .ok [0x60]]).blk.busy = false ∧ 3 ≤ (ready 3 [.ok [], .ok [0x60]]).room ∧
      (ready 3 [.ok [], .ok [0x60]]).answers = .ok [] :: .ok [0x60] :: [] ∧
      failsRead 1 .err = true ∧ (ready 3 [.ok [], .err]).answers = .ok [] :: .err :: [] ∧
      (ready 3 [.err]).answers = .err :: [] := by decide

theorem witness_VerifyMatchesOnlyTheSignature :
    (after (exec .verify (ready 3 [.ok [], .ok [0x58]]))).map (fun t => t.blk.idMatch) = some true := by decide

theorem witness_CalibOnEveryCourseOfAnswers :
    (ready 3 [.ok [], .ok exampleBlock]).blk.busy = false ∧ 3 ≤ (ready 3 [.ok [], .ok exampleBlock]).room ∧
      exampleBlock.length = 24 ∧ failsRead 24 (.ok [0]) = true ∧
      (ready 3 [.ok [], .ok [0]]).answers = .ok [] :: .ok [0] :: [] ∧ (ready 3 [.err]).answers = .err :: [] := by decide

/-- The three boundary scripts and one in between, with TIMEOUT_EN = 0. -/
theorem witness_MeasurementCompletesWithTheRawValue :
    (∀ p ∈ scripts, p.ends) ∧ (ready 64 []).blk.busy = false ∧ (ready 64 []).blk.timeoutEn = false ∧
      scripts.map PollScript.stageSteps = [5, 63, 64] ∧
      (ready 7 (measureAnswers oneBusy 1 2 3)).answers = measureAnswers oneBusy 1 2 3 ++ [] ∧ oneBusy.stageSteps ≤ 7 :=
  ⟨scripts_end, by decide, by decide, by decide, by decide, by decide⟩

theorem witness_MeasurementTimesOut :
    (List.replicate 30 (0x08 : Byte)).length = 30 ∧ (∀ v ∈ List.replicate 30 (0x08 : Byte), measuring v = true) ∧
      { Block.reset with timeoutEn := true }.busy = false ∧ { Block.reset with timeoutEn := true }.timeoutEn = true ∧
      63 ≤ (ready 63 []).room := by decide

/-- The open, the trigger, the thirtieth status read and the data read after each boundary script. -/
theorem witness_MeasurementTransportFailures :
    (ready 64 []).blk.busy = false ∧ 64 ≤ (ready 64 []).room ∧ (ready 64 [.err]).answers = .err :: [] ∧
      (ready 64 [.ok [], .err]).answers = .ok [] :: .err :: [] ∧
      (List.replicate 29 (0x08 : Byte)).length ≤ 29 ∧ (∀ v ∈ List.replicate 29 (0x08 : Byte), measuring v = true) ∧
      failsRead 1 .err = true ∧ (∀ p ∈ scripts, p.ends) ∧ failsRead 3 (.ok [1, 2, 3, 4]) = true :=
  ⟨by decide, by decide, by decide, by decide, by decide, by decide, by decide, scripts_end, by decide⟩

theorem witness_primitives : 31 ≤ 31 ∧ 0 ≤ 31 ∧ (1 : Word) ≠ 0 ∧ (0xFFFFFFFF : Word) ≠ 0 := by decide

theorem witness_compensation_commands : (ready 1 []).blk.busy = false ∧ 1 ≤ (ready 1 []).room := by decide

/-- The source's example, and the extreme raw values with the same coefficients. -/
theorem witness_TemperatureIsExactWithoutOverflow :
    ([0, 519888, 0xFFFFF] : List Word).all (fun adc =>
      let d1 : Int := (adc.toNat : Int) / 8 - 2 * (27504 : Half).toNat
      let d2 : Int := (adc.toNat : Int) / 16 - (27504 : Half).toNat
      let t2 : Int := (26435 : Half).toInt
      let t3 : Int := (BitVec.ofInt 16 (-1000)).toInt
      decide (adc.toNat ≤ 0xFFFFF) && decide (-2 ^ 31 ≤ d1 * t2 ∧ d1 * t2 < 2 ^ 31) && decide (d2 * d2 < 2 ^ 31) &&
        decide (-2 ^ 31 ≤ d2 * d2 / 4096 * t3 ∧ d2 * d2 / 4096 * t3 < 2 ^ 31)) = true := by decide

/-- Rows Z2 and P1 of section 2.3: a zero and a nonzero `var1`. -/
theorem witness_ZeroGuardHoldsForEveryBody :
    (pFront ⟨128422, 0, wrap32 (-10685), 3024, 2855, 140, wrap32 (-7)⟩).var1 = 0 ∧
      (pFront ⟨128422, 36477, wrap32 (-10685), 3024, 2855, 140, wrap32 (-7)⟩).var1 = 36471 := by decide

theorem witness_ZeroP1GivesZeroPressure :
    (ready 1 []).blk.busy = false ∧ 1 ≤ (ready 1 []).room ∧ (ready 1 []).blk.cal.p1 = 0 := by decide

/-- Both sides of the comparison, at the boundary. -/
theorem witness_DivisionIsFloorOfTwicePOverD :
    (0x7FFFFFFF : Word).toNat < 2 ^ 31 ∧ 2 ^ 31 ≤ (0x80000000 : Word).toNat ∧ (1 : Word) ≠ 0 ∧ (2 : Word) ≠ 1 ∧ (2 : Word) ≠ 0 := by
  decide

/-- Two different states with the same operands. -/
theorem witness_CompensationDependsOnlyOnItsOperands :
    let s := ready 1 []
    let s' : State := { ready 7 [.err] with blk := { Block.reset with errCode := .timeoutError, pOut := 9, busAddr := 3 } }
    (s.blk.busy = false ∧ s'.blk.busy = false ∧ 1 ≤ s.room ∧ 1 ≤ s'.room ∧ s.blk ≠ s'.blk) ∧
      (s.blk.adcT = s'.blk.adcT ∧ s.blk.adcP = s'.blk.adcP ∧ s.blk.tFine = s'.blk.tFine ∧ s.blk.cal = s'.blk.cal) ∧
      (after (exec .compt s)).isSome = true ∧ (after (exec .compt s')).isSome = true ∧
      (after (exec .compp s)).isSome = true ∧ (after (exec .compp s')).isSome = true := by decide

/-- The longest run: both poll budgets used up with TIMEOUT_EN = 0; and the shortest. -/
theorem witness_RdpaCompletesWithThePressure :
    (∀ p ∈ scripts, p.ends) ∧ exampleBlock.length = 24 ∧ (ready 133 []).blk.busy = false ∧
      (ready 133 []).blk.timeoutEn = false ∧
      scripts.map (fun p => p.stageSteps + p.stageSteps + 5) = [15, 131, 133] ∧
      (ready 133 (measureAnswers oneBusy 1 2 3 ++ measureAnswers oneBusy 4 5 6 ++ [.ok [], .ok exampleBlock])).answers =
        measureAnswers oneBusy 1 2 3 ++ measureAnswers oneBusy 4 5 6 ++ [.ok [], .ok exampleBlock] ++ [] :=
  ⟨scripts_end, by decide, by decide, by decide, by decide, by decide⟩

/-- A failure in each of the three stages that can fail. -/
theorem witness_FailedRdpaKeepsOlderResults :
    [[.err], [.ok [], .ok [], .ok [0], .ok [1, 2, 3], .err],
      [.ok [], .ok [], .ok [0], .ok [1, 2, 3], .ok [], .ok [], .ok [0], .ok [4, 5, 6], .ok [], .err]].map
        (fun answers => (after (exec (.rdpa .high) (ready 133 answers))).map
          (fun t => (t.blk.busy, t.blk.errCode.isFailure, t.blk.stage))) =
      [some (false, true, 0), some (false, true, 1), some (false, true, 2)] := by decide

theorem witness_frames :
    (ready 2 [.ok []]).blk.busy = false ∧
      ([.verify, .calib, measureCommand .temperature .low, measureCommand .pressure .low, .compt, .compp, .rdpa .low] :
        List Instr).all (fun i => (after (exec i (ready 2 [.ok []]))).isSome) = true := by decide

/-- Every command, with exactly the room and the answers that its bound asks for. -/
theorem witness_EveryCommandEndsWithinItsBound :
    ([.verify, .calib, .rdut .low, .rdup .low, .rdpa .low, .compt, .compp] : List Instr).all (fun i =>
      let s := ready (stepBound i) (List.replicate (answerBound i) .err)
      !s.blk.busy && !s.blk.handleOpen && decide (stepBound i ≤ s.room) && decide (answerBound i ≤ s.answers.length)) = true := by
  decide

/-- Every command reaches an end. -/
theorem witness_CommandsEndWithTheirCodes :
    ([.verify, .calib, .rdut .low, .rdup .low, .rdpa .low, .compt, .compp] : List Instr).map (fun i =>
      (after (exec i (ready 133 [.err]))).map (fun t => (t.blk.busy, t.blk.errCode))) =
    [some (false, .transportOpenError), some (false, .transportOpenError), some (false, .transportOpenError),
      some (false, .transportOpenError), some (false, .transportOpenError), some (false, .none),
      some (false, .invalidCalibration)] := by decide

end Sys2Proof.Tests
end

section
/-! The exact integer reading of the arithmetic primitives (spec 00_scope.md R7): wrapping as congruence modulo 2^32, the right
shifts as floor divisions. -/

namespace Sys2Proof.Machine

theorem wrap32_toInt_congr (x : Int) : (2 : Int) ^ 32 ∣ (wrap32 x).toInt - x := by
  rw [wrap32_toInt]
  exact Int.dvd_bmod_sub_self

theorem wrap32_toNat (x : Int) : ((wrap32 x).toNat : Int) = x % 2 ^ 32 := by
  have nonneg : 0 ≤ x % 2 ^ 32 := Int.emod_nonneg x (by decide)
  simpa [wrap32, BitVec.toNat_ofInt] using nonneg

theorem wrap32_toNat_congr (x : Int) : (2 : Int) ^ 32 ∣ ((wrap32 x).toNat : Int) - x := by
  rw [wrap32_toNat]
  exact Int.dvd_emod_sub_self

/-- Lean's `/` on `Int` by a power of two is the floor of R7. -/
theorem asr32_toInt_eq_floor (a : Word) (n : Nat) : (asr32 a n).toInt = ⌊(a.toInt : ℚ) / 2 ^ n⌋ := by
  have floor_eq := Rat.floor_intCast_div_natCast a.toInt (2 ^ n)
  push_cast at floor_eq
  rw [asr32_toInt, floor_eq]

/-- Rounding toward minus infinity keeps -1 (R7's first example). -/
theorem asr32_neg_one (n : Nat) : asr32 (wrap32 (-1)) n = wrap32 (-1) := by
  have toInt_neg_one : (wrap32 (-1)).toInt = -1 := by decide
  have pow_pos : (0 : Int) < 2 ^ n := by positivity
  apply BitVec.eq_of_toInt_eq
  rw [asr32_toInt, toInt_neg_one]
  exact Int.ediv_eq_neg_one_of_neg_of_le (by decide) pow_pos

/-- A logical right shift never wraps. -/
theorem lsr32_toNat (a : Word) (n : Nat) : (lsr32 a n).toNat = a.toNat / 2 ^ n :=
  BitVec.toNat_ofNat .. |>.trans (Nat.mod_eq_of_lt ((Nat.div_le_self ..).trans_lt a.isLt))

/-- Settles O40: the wrapped primitives are R7's equations by definition, and no right shift or division wraps. -/
theorem primitivesWrapTheExactResult : Obligations.PrimitivesWrapTheExactResult := by
  refine ⟨fun x => ⟨wrap32_toInt_congr x, wrap32_toNat_congr x⟩, fun a b n _ => ?_⟩
  have second_example : asr32 (wrap32 (-6076000)) 14 = wrap32 (-371) := by decide
  exact ⟨rfl, rfl, rfl, rfl, asr32_toInt_eq_floor a n, asr32_neg_one n, second_example, umul32_toNat a b,
    ushl32_toNat a n, lsr32_toNat a n, fun _ => udiv32_toNat a b⟩

end Sys2Proof.Machine
end

section
/-! The state after reset (spec 10_state.md R23). -/

namespace Sys2Proof.Machine

/-- A block at rest stays at rest until an input comes (R70). -/
theorem step_at_rest {s : State} (no_input : s.inputs = []) (idle : s.blk.busy = false) : step s = .next s :=
  (step_engine no_input).trans (engineStep_idle idle)

/-- Settles O11: the elements are R23's table by definition, and the state after reset is at rest. -/
theorem resetPutsEveryElementAtItsValue : Obligations.ResetPutsEveryElementAtItsValue :=
  ⟨rfl, step_at_rest rfl rfl⟩

end Sys2Proof.Machine
end

section
/-! The accesses of one step (spec 20_memory.md R37, R44): every event the engine issues is a mapped one while the block holds an
oversampling value of R90, and a mapped access touches neither the reset nor the config register. -/

namespace Sys2Proof.Machine

/-! ## Mapped events -/

/-- The trigger byte of an oversampling value of R90 is one of the ten control bytes of R55. -/
theorem allowedEvent_trigger (addr : BitVec 7) (q : Quantity) {osrs : BitVec 3}
    (range : 1 ≤ osrs.toNat ∧ osrs.toNat ≤ 5) : allowedEvent addr (.busWrite regCtrl (ctrlByte q osrs)) = true := by
  simp only [allowedEvent]
  revert osrs
  cases q <;> decide

/-- None of the five reads covers 0xE0 or 0xF5. -/
theorem allowedEvent_busRead_avoids {addr : BitVec 7} {r : Byte} {n : Nat}
    (allowed : allowedEvent addr (.busRead r n) = true) :
    ∀ k < n, r.toNat + k ≠ 0xE0 ∧ r.toNat + k ≠ 0xF5 := by
  simp only [allowedEvent, decide_eq_true_eq, List.mem_cons, Prod.mk.injEq, List.not_mem_nil, or_false] at allowed
  rcases allowed with ⟨rfl, rfl⟩ | ⟨rfl, rfl⟩ | ⟨rfl, rfl⟩ | ⟨rfl, rfl⟩ | ⟨rfl, rfl⟩ <;> decide

/-- The one register written is 0xF4. -/
theorem allowedEvent_busWrite_avoids {addr : BitVec 7} {r v : Byte} (allowed : allowedEvent addr (.busWrite r v) = true) :
    r ≠ 0xE0 ∧ r ≠ 0xF5 := by
  simp only [allowedEvent, Bool.and_eq_true, decide_eq_true_eq] at allowed
  obtain ⟨rfl, -⟩ := allowed
  decide

/-- The event of every micro-step is a mapped one, if OSRS is a value of R90. -/
theorem eventOf_allowed {b : Block} {e : Event} (range : 1 ≤ b.osrs.toNat ∧ b.osrs.toNat ≤ 5) (issued : eventOf b = some e) :
    allowedEvent b.busAddr e = true := by
  unfold eventOf at issued
  cases position : b.upc <;> rw [position] at issued
  case uOpen =>
    dsimp only at issued
    split at issued
    · cases issued; exact decide_eq_true rfl
    · cases issued
  case uTrig =>
    dsimp only at issued
    split at issued
    · next q _ => cases issued; exact allowedEvent_trigger _ q range
    · cases issued
  case uData =>
    dsimp only at issued
    split at issued
    · next q _ => cases issued; cases q <;> rfl
    · cases issued
  all_goals cases issued <;> rfl

/-! ## Ready blocks -/

/-- A busy block has the bus address `addr` and an oversampling value of R90. -/
def ReadyToIssue (addr : BitVec 7) (b : Block) : Prop :=
  b.busy = true → b.busAddr = addr ∧ 1 ≤ b.osrs.toNat ∧ b.osrs.toNat ≤ 5

theorem readyToIssue_of_idle {addr : BitVec 7} {b : Block} (idle : b.busy = false) : ReadyToIssue addr b := by
  simp [ReadyToIssue, idle]

theorem Inv.readyToIssue {b : Block} (inv : Inv b) : ReadyToIssue b.busAddr b :=
  fun busy => ⟨rfl, (inv.busy_ranges busy).2⟩

theorem effectOf_keeps_readyToIssue {addr : BitVec 7} {b b' : Block} {a : Answer} (busy : b.busy = true)
    (ready : ReadyToIssue addr b) (effect : effectOf a b = some b') : ReadyToIssue addr b' := by
  obtain ⟨⟨sameAddr, -, -, sameOsrs, -⟩, -⟩ := effectOf_frame effect
  intro _
  rw [sameAddr, sameOsrs]
  exact ready busy

@[simp] theorem storeReg_busy (i : BitVec 5) (v : Word) (b : Block) : (storeReg i v b).busy = b.busy := by
  unfold storeReg
  split <;> try split
  all_goals rfl

/-- BUSADDR can change with an input, but only in a block that the input leaves idle. -/
theorem InputChange.readyToIssue {x : Input} {b b' : Block} (ready : ReadyToIssue b.busAddr b)
    (change : InputChange x b b') : ReadyToIssue b.busAddr b' := by
  cases change with
  | unchanged => exact ready
  | command i =>
    unfold issue
    split
    · exact ready
    · exact fun _ => ⟨rfl, mapAccuracy_range _⟩
  | illegal c =>
    unfold issueIllegal
    split
    · exact ready
    · next idle => exact readyToIssue_of_idle (by simpa using idle)
  | register i v =>
    unfold hostWriteReg
    split
    · exact ready
    · next idle => exact readyToIssue_of_idle (by simpa using idle)
  | reset => exact readyToIssue_of_idle rfl

/-! ## The trace -/

/-- `u` follows `s` with mapped events only: the trace has grown by them, and the block can issue no other. -/
structure IssuedOnlyAllowed (s u : State) : Prop where
  ready : ReadyToIssue s.blk.busAddr u.blk
  added : ∃ new, u.trace = s.trace ++ new ∧ ∀ x ∈ new, allowedEvent s.blk.busAddr x.event = true

theorem IssuedOnlyAllowed.of_same_trace {s u : State} (ready : ReadyToIssue s.blk.busAddr u.blk)
    (same : u.trace = s.trace) : IssuedOnlyAllowed s u :=
  ⟨ready, [], by simp [same]⟩

/-- One more mapped event may be recorded. -/
theorem IssuedOnlyAllowed.record {s u : State} {b : Block} {e : Event} {answer : Option Answer} {rest : List Answer}
    (issued : IssuedOnlyAllowed s u) (ready : ReadyToIssue s.blk.busAddr b)
    (allowed : allowedEvent s.blk.busAddr e = true) :
    IssuedOnlyAllowed s { u with blk := b, answers := rest, trace := u.trace ++ [⟨e, answer⟩] } := by
  obtain ⟨-, new, grown, allAllowed⟩ := issued
  refine ⟨ready, new ++ [⟨e, answer⟩], by simp [grown], fun x mem => ?_⟩
  rcases List.mem_append.mp mem with old | last
  · exact allAllowed x old
  · rw [List.mem_singleton.mp last]; exact allowed

theorem engineStep_keeps_issuedOnlyAllowed {s u u' : State} (issued : IssuedOnlyAllowed s u)
    (stepped : engineStep u = .next u') : IssuedOnlyAllowed s u' := by
  have allowed {e : Event} (busy : u.blk.busy = true) (event : eventOf u.blk = some e) :
      allowedEvent s.blk.busAddr e = true := by
    obtain ⟨sameAddr, range⟩ := issued.ready busy
    rw [← sameAddr]
    exact eventOf_allowed range event
  rcases engineStep_cases stepped with
    rfl | ⟨b, busy, ⟨-, effect, rfl⟩ | ⟨e, event, -, effect, rfl⟩ | ⟨e, a, rest, event, -, -, effect, rfl⟩⟩
  · exact issued
  · exact ⟨effectOf_keeps_readyToIssue busy issued.ready effect, issued.added⟩
  · exact issued.record (effectOf_keeps_readyToIssue busy issued.ready effect) (allowed busy event)
  · exact issued.record (effectOf_keeps_readyToIssue busy issued.ready effect) (allowed busy event)

theorem step_issuesOnlyAllowed {s t : State} (inv : Inv s.blk) (stepped : step s = .next t) : IssuedOnlyAllowed s t := by
  cases inputs : s.inputs with
  | nil =>
    rw [step_engine inputs] at stepped
    exact engineStep_keeps_issuedOnlyAllowed (.of_same_trace inv.readyToIssue rfl) stepped
  | cons turn rest =>
    obtain ⟨u, run, change, -, sameTrace, -⟩ := step_takes_input inputs
    rw [run] at stepped
    exact runEngine_invariant (fun _ _ => engineStep_keeps_issuedOnlyAllowed)
      (.of_same_trace (change.readyToIssue inv.readyToIssue) sameTrace) stepped

/-- Settles O19: a step adds mapped events only, and what a mapped read or write covers leaves out 0xE0 and 0xF5. -/
theorem stepsIssueOnlyTheMappedAccesses : Obligations.StepsIssueOnlyTheMappedAccesses := by
  intro s t inv stepped
  obtain ⟨new, grown, allAllowed⟩ := (step_issuesOnlyAllowed inv stepped).added
  refine ⟨new, grown, fun x mem => ⟨allAllowed x mem, ?_⟩⟩
  obtain ⟨event, answer⟩ := x
  cases event with
  | busRead r n => exact allowedEvent_busRead_avoids (allAllowed _ mem)
  | busWrite r v => exact allowedEvent_busWrite_avoids (allAllowed _ mem)
  | busOpen _ | busClose | delay => trivial

end Sys2Proof.Machine
end

section
/-! Command words (spec 30_encoding.md R50 to R53): what a word that decodes is made of, and what a write of `CMD` does with it
before any micro-step (R54, R78). -/

namespace Sys2Proof.Machine

/-! ## Decoding -/

/-- R50: format N takes the operand field 0000 only. -/
theorem formatN_eq_ok_iff {c : Byte} {i j : Instr} : formatN c i = .ok j ↔ operandField c = 0 ∧ i = j := by
  unfold formatN
  split <;> simp_all

/-- R50: format M takes a clear bit 3 only. -/
theorem formatM_eq_ok_iff {c : Byte} {mk : Accuracy → Instr} {j : Instr} :
    formatM c mk = .ok j ↔ c.getLsbD 3 = false ∧ mk (accuracyOf (accField c)) = j := by
  unfold formatM
  split <;> simp_all

/-- A word is its two fields (R50). -/
theorem opcField_append_operandField (c : Byte) : opcField c ++ operandField c = c :=
  BitVec.extractLsb'_append_extractLsb' (len := 4) (w := 4)

/-- With bit 3 clear the operand field is `0 ++ ACC` (R50). -/
theorem operandField_of_bit_three_clear : ∀ {c : Byte}, c.getLsbD 3 = false → operandField c = 0#1 ++ accField c := by
  decide

/-- Every ACC value has a symbol that stands for it (R52). -/
theorem accBits_accuracyOf : ∀ acc : BitVec 3, accBits (accuracyOf acc) = acc := by decide

/-- Only VERIFY has opcode 1 (R51). -/
theorem opcode_eq_one_iff (i : Instr) : opcode i = 1 ↔ i = .verify := by
  cases i <;> simp [opcode]

/-- A legal word has the opcode and the operand field of its command (R51). -/
theorem fields_of_decode {c : Byte} {i : Instr} (legal : decode c = .ok i) :
    opcField c = opcode i ∧ operandField c = operandBits i := by
  unfold decode at legal
  split at legal
  case h_8 => cases legal
  case h_1 opc | h_2 opc | h_6 opc | h_7 opc =>
    obtain ⟨operand, rfl⟩ := formatN_eq_ok_iff.mp legal
    exact ⟨BitVec.eq_of_toNat_eq opc, operand⟩
  case h_3 opc | h_4 opc | h_5 opc =>
    obtain ⟨clear, rfl⟩ := formatM_eq_ok_iff.mp legal
    refine ⟨BitVec.eq_of_toNat_eq opc, ?_⟩
    simp only [operandBits, accBits_accuracyOf]
    exact operandField_of_bit_three_clear clear

/-- A legal word is the word of the command it stands for. -/
theorem encode_of_decode {c : Byte} {i : Instr} (legal : decode c = .ok i) : encode i = c := by
  obtain ⟨opc, operand⟩ := fields_of_decode legal
  rw [encode, ← opc, ← operand, opcField_append_operandField]

/-- A word that stands for no command is rejected for some reason. -/
theorem decode_error_of_not_ok {c : Byte} (illegal : ∀ i, decode c ≠ .ok i) : ∃ r, decode c = .error r := by
  cases word : decode c with
  | ok i => exact absurd word (illegal i)
  | error r => exact ⟨r, rfl⟩

/-- R53, the legality condition: format N under the opcodes 1, 2, 6 and 7, format M under 3, 4 and 5, nothing else. -/
theorem decode_legal_iff (c : Byte) : (∃ i, decode c = .ok i) ↔
    ((opcField c ∈ ([1, 2, 6, 7] : List (BitVec 4)) ∧ operandField c = 0) ∨
      (opcField c ∈ ([3, 4, 5] : List (BitVec 4)) ∧ c.getLsbD 3 = false)) := by
  unfold decode
  split
  case h_8 => simp_all [BitVec.toNat_eq]
  case h_1 opc | h_2 opc | h_6 opc | h_7 opc => simp [BitVec.toNat_eq, opc, formatN_eq_ok_iff]
  case h_3 opc | h_4 opc | h_5 opc => simp [BitVec.toNat_eq, opc, formatM_eq_ok_iff]

/-- R53, the census: 28 legal words, and the 228 illegal ones by the reason for which each is rejected. -/
theorem decode_census :
    ((List.range 256).countP fun n => (decode (BitVec.ofNat 8 n)).toOption.isSome) = 28 ∧
    ((List.range 256).countP fun n => decide ((decode (BitVec.ofNat 8 n)) = .error .reservedOpcode)) = 144 ∧
    ((List.range 256).countP fun n => decide ((decode (BitVec.ofNat 8 n)) = .error .operandNotZero)) = 60 ∧
    ((List.range 256).countP fun n => decide ((decode (BitVec.ofNat 8 n)) = .error .bitThreeSet)) = 24 := by
  decide +kernel

/-! ## A write of `CMD` -/

/-- A write of a legal word is the meaning of its command (R54, R59). -/
theorem step_legal_word {s : State} {v : Word} {n : Nat} {rest : List Turn} {i : Instr}
    (write : s.inputs = ⟨.write 0 v, n⟩ :: rest) (legal : decode (v.setWidth 8) = .ok i) :
    step s = exec i { s with inputs := rest, room := n } := by
  rw [step_serve write]
  simp [serve, serveWrite, serveCommand, legal]

/-- A write of an illegal word is R78's writes, or nothing if the block is busy, and the engine's turn. -/
theorem step_illegal_word {s : State} {v : Word} {n : Nat} {rest : List Turn} {r : Reject}
    (write : s.inputs = ⟨.write 0 v, n⟩ :: rest) (illegal : decode (v.setWidth 8) = .error r) :
    step s = engineTurn { s with blk := issueIllegal (v.setWidth 8) s.blk, inputs := rest, room := n } := by
  rw [step_serve write]
  simp [serve, serveWrite, serveCommand, illegal]

/-- An idle block takes R78's writes and stays idle, so the turn does nothing more. -/
theorem step_illegal_word_idle {s : State} {v : Word} {n : Nat} {rest : List Turn} {r : Reject}
    (write : s.inputs = ⟨.write 0 v, n⟩ :: rest) (illegal : decode (v.setWidth 8) = .error r)
    (idle : s.blk.busy = false) :
    step s = .next { s with blk := acceptIllegal (v.setWidth 8) s.blk, inputs := rest, room := 0 } := by
  have accepted : issueIllegal (v.setWidth 8) s.blk = acceptIllegal (v.setWidth 8) s.blk := by simp [issueIllegal, idle]
  rw [step_illegal_word write illegal, accepted]
  exact engineTurn_idle idle

/-- A busy block drops a write of `CMD`, legal or not (R54): the turn is what it is without one. -/
theorem step_command_write_busy {s : State} {v : Word} {n : Nat} {rest : List Turn}
    (write : s.inputs = ⟨.write 0 v, n⟩ :: rest) (busy : s.blk.busy = true) :
    step s = runEngine n { s with inputs := rest, room := 0 } := by
  cases word : decode (v.setWidth 8) with
  | ok i =>
    rw [step_legal_word write word, exec_eq_command]
    exact command_dropped busy
  | error r =>
    have dropped : issueIllegal (v.setWidth 8) s.blk = s.blk := by simp [issueIllegal, busy]
    rw [step_illegal_word write word, dropped]
    rfl

/-- Acceptance of a legal word in terms of the command it stands for (R54, R72): all that it writes. -/
theorem acceptLegal_of_decode {c : Byte} {i : Instr} (legal : decode c = .ok i) (b : Block) :
    acceptLegal c (firstStage i) b =
      { b with
        cmd := c
        errCode := .none
        done := false
        pollExhausted := false
        op := opcField c
        osrs := mapAccuracy (accField c)
        stage := 0
        busy := true
        idMatch := if i = .verify then false else b.idMatch
        upc := entryUpc (firstStage i)
        phase := entryPhase (firstStage i) } := by
  have verify_iff : opcField c = 1 ↔ i = .verify := by rw [(fields_of_decode legal).1, opcode_eq_one_iff]
  simp only [acceptLegal, enterStage, latchCommand, verify_iff]

/-- Settles O5: dropped while busy, else R78's writes or acceptance with the entry values of the command's first stage. -/
theorem commandWriteIsAcceptedOnlyWhenIdle : Obligations.CommandWriteIsAcceptedOnlyWhenIdle := by
  intro s v rest write
  refine ⟨step_command_write_busy write, fun idle illegal => ?_, fun idle i legal => ?_⟩
  · obtain ⟨r, rejected⟩ := decode_error_of_not_ok illegal
    exact step_illegal_word_idle write rejected idle
  · have acc : accField (v.setWidth 8) = v.extractLsb' 0 3 := BitVec.extractLsb'_setWidth_of_le (by decide)
    rw [step_legal_word write legal, exec_idle (by exact idle), encode_of_decode legal, acceptLegal_of_decode legal, acc]
    cases i <;> rfl

/-- Settles O2: the legality condition and the census of the decoder, and R78's writes by an illegal word. -/
theorem legalWordsAreExactlyThoseOfTheOpcodeMap : Obligations.LegalWordsAreExactlyThoseOfTheOpcodeMap := by
  obtain ⟨legal, reserved, operand, bitThree⟩ := decode_census
  refine ⟨decode_legal_iff, legal, reserved, operand, bitThree, ⟨.reservedOpcode, rfl⟩, ?_⟩
  intro s c n rest idle illegal write
  have low_byte : (c.setWidth 32).setWidth 8 = c := by simp
  obtain ⟨r, rejected⟩ := decode_error_of_not_ok illegal
  rw [← low_byte] at rejected
  exact ⟨_, step_illegal_word_idle write rejected idle, idle, rfl, rfl⟩

end Sys2Proof.Machine
end

section
/-! The wire formats (spec 30_encoding.md R55, R57): the trigger byte as its three fields, and a calibration field as a number. -/

namespace Sys2Proof.Machine

/-! ## The trigger byte -/

/-- `U_TRIG` of a measurement stage writes the control byte of its quantity to 0xF4 (R93). -/
theorem eventOf_trigger {b : Block} {q : Quantity} (at_trigger : b.upc = .uTrig) (quantity : currentQuantity b = some q) :
    eventOf b = some (.busWrite regCtrl (ctrlByte q b.osrs)) := by
  simp [eventOf, at_trigger, quantity]

/-- The trigger byte's layout (R55): the temperature field, the pressure field, the mode. -/
theorem ctrlByte_layout : ∀ osrs : BitVec 3,
    ctrlByte .temperature osrs = osrs ++ 0#3 ++ 1#2 ∧ ctrlByte .pressure osrs = 0#3 ++ osrs ++ 1#2 := by
  decide

/-- A control byte written as three fields has these fields. -/
theorem controlFields_append (t p : BitVec 3) (mode : BitVec 2) :
    (t ++ p ++ mode).extractLsb' 5 3 = t ∧ (t ++ p ++ mode).extractLsb' 2 3 = p ∧
      (t ++ p ++ mode).extractLsb' 0 2 = mode := by
  refine ⟨?_, ?_, BitVec.extractLsb'_append_eq_right⟩
  · rw [BitVec.extractLsb'_append_eq_of_le (by decide)]
    exact BitVec.extractLsb'_append_eq_left
  · rw [BitVec.extractLsb'_append_eq_of_le (by decide)]
    exact BitVec.extractLsb'_append_eq_right

/-- Settles O33: both bytes by their layout, the ten of the table by evaluation. -/
theorem triggerByteFields : Obligations.TriggerByteFields := by
  refine ⟨fun b q => eventOf_trigger, fun _ => ⟨rfl, rfl⟩, fun osrs => ?_, by decide, by decide⟩
  obtain ⟨temperature, pressure⟩ := ctrlByte_layout osrs
  obtain ⟨tempOsrs, tempOther, tempMode⟩ := controlFields_append osrs 0 1
  obtain ⟨pressOther, pressOsrs, pressMode⟩ := controlFields_append 0 osrs 1
  rw [temperature, pressure]
  exact ⟨tempOsrs, tempOther, tempMode, pressOther, pressOsrs, pressMode⟩

/-! ## The calibration block -/

/-- A calibration field as a number: the byte at the lower address counts once, the other 256 times (R34, R57). -/
theorem calField_toNat (bs : List Byte) (i : Nat) :
    (calField bs i).toNat = (bs.getD (2 * i) 0).toNat + 256 * (bs.getD (2 * i + 1) 0).toNat := by
  have low_lt : (bs.getD (2 * i) 0).toNat < 2 ^ 8 := (bs.getD (2 * i) 0).isLt
  rw [calField, BitVec.toNat_append, ← Nat.shiftLeft_add_eq_or_of_lt low_lt, Nat.shiftLeft_eq]
  omega

/-- Settles O30: `decodeCal` lists the twelve fields in order, each by `calField_toNat`. -/
theorem calibrationBlockIsLittleEndian : Obligations.CalibrationBlockIsLittleEndian := by
  intro bs _
  change (List.range 12).map (fun i => (calField bs i).toNat) = _
  exact List.map_congr_left fun i _ => calField_toNat bs i

end Sys2Proof.Machine
end

section
/-! The sequencer (spec 40_sequencer.md): what an illegal word leaves for the host to read (R78), and the micro-steps that end a
stage (R74, R75). -/

namespace Sys2Proof.Machine

/-! ## An illegal word -/

/-- R15: `STATUS` of an accepted illegal word is 0x406 where the informational flags and `BUSY` were 0. -/
theorem acceptIllegal_status {b : Block} (c : Byte) (idle : b.busy = false) (noCal : b.calLoaded = false)
    (noFine : b.fineValid = false) (noMatch : b.idMatch = false) (noHandle : b.handleOpen = false) :
    (acceptIllegal c b).status = 0x406 := by
  simp [Block.status, Block.err, Phase.code, ErrCode.isFailure, idle, noCal, noFine, noMatch, noHandle]

/-- Settles O6: an idle block takes R78's writes and stays idle through the turn; the host reads the status word and the code of
these writes. -/
theorem illegalWordStartsNothing : Obligations.IllegalWordStartsNothing := by
  intro s v n rest r write idle illegal b
  refine ⟨step_illegal_word_idle write illegal idle, fun noCal noFine noMatch noHandle => ⟨?_, rfl⟩⟩
  have status : b.status = 0x406 := acceptIllegal_status (v.setWidth 8) idle noCal noFine noMatch noHandle
  calc
    hostRead 1 b = b.status.setWidth 32 := rfl
    _ = 0x406 := by rw [status]; rfl

/-! ## The end of a stage -/

/-- Settles O22: each of the three micro-steps is its own writes and `stageDone`, and `stageDone` is the stated advance of any block
that kept `OP` and `STAGE`. -/
theorem closeAndComputeMicroStepsAdvanceTheStage : Obligations.CloseAndComputeMicroStepsAdvanceTheStage := by
  intro s no_input busy advance
  have stageDone_eq_advance {b : Block} (op : b.op = s.blk.op) (stage : b.stage = s.blk.stage) :
      stageDone b = advance b := by
    cases following : (stageList s.blk.op)[s.blk.stage.toNat + 1]? with
    | none =>
      rw [stageDone_last (by rw [op, stage, following])]
      simp only [advance, following, finishOk]
    | some st =>
      rw [stageDone_next (by rw [op, stage, following])]
      simp only [advance, following, enterStage, stage]
      cases st <;> rfl
  rw [step_engine no_input]
  refine ⟨fun at_close => ?_, fun at_compT => ?_, fun at_compP => ?_⟩
  · rw [engineStep_close busy at_close, stageDone_eq_advance] <;> rfl
  · rw [engineStep_compT busy at_compT, uCompT, stageDone_eq_advance] <;> rfl
  · rw [engineStep_compP busy at_compP, uCompP, stageDone_eq_advance] <;> rfl

end Sys2Proof.Machine
end

section
/-! A measurement stage (spec 42_measurement.md): the delay after a busy status read (R95), and a raw value as a number (R97). -/

namespace Sys2Proof.Machine

/-! ## The delay -/

/-- Settles O28: the delay is issued whatever the count, and the count and TIMEOUT_EN choose among the three outcomes of `uDelay`. -/
theorem delayMicroStepRetriesOrGivesUp : Obligations.DelayMicroStepRetriesOrGivesUp := by
  intro s no_input busy at_delay
  rw [step_engine no_input, engineStep_delay busy at_delay]
  refine ⟨fun budget_left => ?_, fun used_up timeout => ?_, fun used_up no_timeout => ?_⟩
  · rw [uDelay_retry budget_left]
  · rw [uDelay_timeout used_up.ge timeout]
  · rw [uDelay_proceed used_up.ge no_timeout]

/-! ## The raw value -/

/-- The three parts of a raw value do not overlap, so it is their sum (R97). -/
theorem decodeRaw_toNat (b0 b1 b2 : Byte) :
    (decodeRaw b0 b1 b2).toNat = b0.toNat * 4096 + b1.toNat * 16 + b2.toNat / 16 := by
  have low_lt : b2.toNat / 16 < 2 ^ 4 := by omega
  have middle_lt : b1.toNat * 2 ^ 4 + b2.toNat / 16 < 2 ^ 12 := by omega
  calc
    (decodeRaw b0 b1 b2).toNat = b0.toNat <<< 12 ||| (b1.toNat <<< 4 ||| b2.toNat / 16) := by
      simp (disch := omega) [decodeRaw, Nat.shiftLeft_eq, Nat.shiftRight_eq_div_pow, Nat.or_assoc, Nat.mod_eq_of_lt]
    _ = b0.toNat <<< 12 + (b1.toNat <<< 4 + b2.toNat / 16) := by
      rw [← Nat.shiftLeft_add_eq_or_of_lt low_lt, ← Nat.shiftLeft_add_eq_or_of_lt]
      rwa [Nat.shiftLeft_eq]
    _ = b0.toNat * 4096 + b1.toNat * 16 + b2.toNat / 16 := by
      rw [Nat.shiftLeft_eq, Nat.shiftLeft_eq, Nat.add_assoc]

/-- Settles O31: the number is `decodeRaw_toNat`, which reads the third byte through its high nibble only; the range is that of a
20-bit word. -/
theorem rawValueDecode : Obligations.RawValueDecode := by
  refine ⟨fun b0 b1 b2 => ⟨decodeRaw_toNat b0 b1 b2, Nat.le_of_lt_succ (decodeRaw b0 b1 b2).isLt, ?_⟩, by decide⟩
  intro b2' same_nibble
  apply BitVec.eq_of_toNat_eq
  rw [decodeRaw_toNat, decodeRaw_toNat, same_nibble]

end Sys2Proof.Machine
end

section
/-! Compensation (spec 43_compensation.md): the scaling and the zero guard of the pressure function (R105, R106), the two commands as
one micro-step each (R102, R109), and the operands they depend on (R110). -/

namespace Sys2Proof.Machine

/-! ## The scaling: wrapping is a ring homomorphism, so inner wraps can be dropped -/

theorem wrap32_sub (x y : Int) : wrap32 (x - y) = wrap32 x - wrap32 y := Int.cast_sub (R := Word) x y

theorem wrap32_mul (x y : Int) : wrap32 (x * y) = wrap32 x * wrap32 y := BitVec.ofInt_mul x y

@[simp] theorem wrap32_toInt_self (a : Word) : wrap32 a.toInt = a := BitVec.ofInt_toInt

theorem sub32_eq_sub (a b : Word) : sub32 a b = a - b := by
  rw [sub32, wrap32_sub, wrap32_toInt_self, wrap32_toInt_self]

theorem umul32_eq_mul (a b : Word) : umul32 a b = a * b := by
  rw [umul32, BitVec.ofNat_mul, BitVec.ofNat_toNat, BitVec.ofNat_toNat, BitVec.setWidth_eq, BitVec.setWidth_eq]

/-- Settles O48: the inner subtractions and the shift are wrapped integers, and the wraps move outside the product. -/
theorem scaleWrapsOneExactFormula : Obligations.ScaleWrapsOneExactFormula := by
  intro adc var2
  have shifted : asr32 var2 12 = wrap32 (var2.toInt / 4096) := rfl
  calc
    scale adc var2 = wrap32 3125 * (wrap32 1048576 - adc - wrap32 (var2.toInt / 4096)) := by
      rw [scale, umul32_eq_mul, sub32_eq_sub, sub32_eq_sub, shifted, BitVec.mul_comm]
    _ = wrap32 (3125 * (1048576 - adc.toInt - var2.toInt / 4096)) := by
      rw [wrap32_mul, wrap32_sub, wrap32_sub, wrap32_toInt_self]

/-! ## The zero guard -/

section
variable {front : Config.PFront} {corr : Config.PCorr} {x : PressInput}

theorem compPWith_of_zero (zero : (front x.front).var1 = 0) : compPWith front corr x = (0, true) := if_pos zero

theorem compPWith_of_nonzero (nonzero : (front x.front).var1 ≠ 0) :
    compPWith front corr x =
      (corr (divide (scale x.adc (front x.front).var2) (front x.front).var1) x.p7 x.p8 x.p9, false) := if_neg nonzero

end

/-- Settles O46: the two branches of the guard; each fixes the condition. -/
theorem zeroGuardHoldsForEveryBody : Obligations.ZeroGuardHoldsForEveryBody := by
  intro front corr x
  refine ⟨compPWith_of_zero, compPWith_of_nonzero, ?_⟩
  by_cases zero : (front x.front).var1 = 0
  · rw [compPWith_of_zero zero]
    exact iff_of_true rfl zero
  · rw [compPWith_of_nonzero zero]
    exact iff_of_false Bool.false_ne_true zero

/-! ## The commands -/

/-- Acceptance writes no operand. -/
theorem tempOperands_acceptLegal (c : Byte) (st : Stage) (b : Block) :
    tempOperands (acceptLegal c st b) = tempOperands b := rfl

theorem pressOperands_acceptLegal (c : Byte) (st : Stage) (b : Block) :
    pressOperands (acceptLegal c st b) = pressOperands b := rfl

/-- A command whose first micro-step ends it ignores the rest of its room. -/
theorem exec_of_one_micro_step {i : Instr} {s : State} {b : Block} (idle : s.blk.busy = false) (has_room : 1 ≤ s.room)
    (computes : engineStep { s with room := 0, blk := acceptLegal (encode i) (firstStage i) s.blk } =
      .next { s with room := 0, blk := b })
    (ends : b.busy = false) : exec i s = .next { s with room := 0, blk := b } := by
  obtain ⟨n, room_eq⟩ := Nat.exists_eq_add_of_le' has_room
  rw [exec_idle idle, room_eq, runEngine_succ computes, runEngine_idle ends]

section
variable {s t : State} (idle : s.blk.busy = false) (has_room : 1 ≤ s.room)
include idle has_room

theorem exec_compt :
    exec .compt s = .next { s with room := 0, blk := uCompT (acceptLegal (encode .compt) .sCompT s.blk) } :=
  exec_of_one_micro_step idle has_room (engineStep_compT rfl rfl) rfl

theorem exec_compp :
    exec .compp s = .next { s with room := 0, blk := uCompP (acceptLegal (encode .compp) .sCompP s.blk) } :=
  exec_of_one_micro_step idle has_room (engineStep_compP rfl rfl) rfl

theorem exec_compt_results (ran : exec .compt s = .next t) :
    t.blk.tFine = (compT (tempOperands s.blk)).1 ∧ t.blk.tOut = (compT (tempOperands s.blk)).2 := by
  obtain rfl := Host.Outcome.next.inj (ran.symm.trans (exec_compt idle has_room))
  rw [uCompT, tempOperands_acceptLegal]
  simp only [stageDone_tFine, stageDone_tOut, and_self]

theorem exec_compp_results (ran : exec .compp s = .next t) :
    t.blk.pOut = (compP (pressOperands s.blk)).1 ∧
      t.blk.errCode = if (compP (pressOperands s.blk)).2 then .invalidCalibration else .none := by
  obtain rfl := Host.Outcome.next.inj (ran.symm.trans (exec_compp idle has_room))
  rw [uCompP, pressOperands_acceptLegal]
  simp only [stageDone_pOut, stageDone_errCode, acceptLegal_errCode, and_self]

end

/-- Settles O42: one stage, so its micro-step finishes the command. -/
theorem comptComputesTemperature : Obligations.ComptComputesTemperature := by
  refine ⟨rfl, fun s idle has_room => ?_⟩
  rw [exec_compt idle has_room, uCompT, stageDone_last rfl]
  rfl

/-- Settles O43: one stage, so its micro-step finishes the command. The pair of results is taken apart before the two states are
compared, because deciding the condition would evaluate the whole function. -/
theorem comppComputesPressure : Obligations.ComppComputesPressure := by
  refine ⟨rfl, fun s idle has_room => ?_⟩
  intro c r
  have results : compP (pressOperands s.blk) = r := rfl
  rw [exec_compp idle has_room, uCompP, stageDone_last rfl, pressOperands_acceptLegal, results]
  obtain ⟨pOut, invalid⟩ := r
  rfl

/-! ## What the results depend on -/

theorem tempOperands_congr {b b' : Block} (adc : b.adcT = b'.adcT) (t1 : b.cal.t1 = b'.cal.t1)
    (t2 : b.cal.t2 = b'.cal.t2) (t3 : b.cal.t3 = b'.cal.t3) : tempOperands b = tempOperands b' := by
  simp only [tempOperands, adc, t1, t2, t3]

/-- The pressure operands do not read T1, T2 and T3. -/
theorem pressOperands_clear_temperature (b : Block) :
    pressOperands { b with cal := { b.cal with t1 := 0, t2 := 0, t3 := 0 } } = pressOperands b := rfl

theorem pressOperands_congr {b b' : Block} (adc : b.adcP = b'.adcP) (fine : b.tFine = b'.tFine)
    (cal : { b.cal with t1 := 0, t2 := 0, t3 := 0 } = { b'.cal with t1 := 0, t2 := 0, t3 := 0 }) :
    pressOperands b = pressOperands b' := by
  rw [← pressOperands_clear_temperature b, ← pressOperands_clear_temperature b', cal]
  simp only [pressOperands, adc, fine]

/-- Settles O50: each command's results are a function of its operands, and the two states have the same operands. -/
theorem compensationDependsOnlyOnItsOperands : Obligations.CompensationDependsOnlyOnItsOperands := by
  intro s s' t t' idle idle' has_room has_room'
  refine ⟨fun ran ran' adc t1 t2 t3 => ?_, fun ran ran' adc fine cal => ?_⟩
  · obtain ⟨tFine, tOut⟩ := exec_compt_results idle has_room ran
    obtain ⟨tFine', tOut'⟩ := exec_compt_results idle' has_room' ran'
    have operands : tempOperands s.blk = tempOperands s'.blk := tempOperands_congr adc t1 t2 t3
    rw [tFine, tFine', tOut, tOut', operands]
    exact ⟨rfl, rfl⟩
  · obtain ⟨pOut, errCode⟩ := exec_compp_results idle has_room ran
    obtain ⟨pOut', errCode'⟩ := exec_compp_results idle' has_room' ran'
    have operands : pressOperands s.blk = pressOperands s'.blk := pressOperands_congr adc fine cal
    rw [pOut, pOut', errCode, errCode', operands]
    exact ⟨rfl, rfl⟩

end Sys2Proof.Machine
end

section
/-! Decode and encode agree (spec 30_encoding.md sections 1 and 2): a well-formed command is read back from its word, and a word
that decodes stands for a well-formed command. -/

namespace Sys2Proof.Machine

open Sys2Proof.Laws.EncodesLegal (measuring_words)

/-- The symbol of an ACC value is well formed (R52). -/
theorem accuracyOf_wf : ∀ acc : BitVec 3, (accuracyOf acc).wf = true := by decide

/-- A well-formed accuracy is the symbol of its ACC value (R52). -/
theorem accuracyOf_accBits {acc : Accuracy} (wf : acc.wf = true) : accuracyOf (accBits acc) = acc := by
  cases acc with
  | ultraLow | low | standard | high | ultraHigh => rfl
  | unrecognized code =>
    have unnamed : ∀ code : BitVec 3, (Accuracy.unrecognized code).wf = true → accuracyOf code = .unrecognized code := by
      decide
    exact unnamed code wf

/-- A well-formed command is read back from its word (R50 to R52). -/
theorem decode_encode {i : Instr} (wf : i.wf = true) : decode (encode i) = .ok i := by
  cases i with
  | verify | calib | compt | compp => rfl
  | rdut acc =>
    obtain ⟨⟨word, -, -⟩, -⟩ := measuring_words (accBits acc)
    rwa [accuracyOf_accBits wf] at word
  | rdup acc =>
    obtain ⟨⟨-, word, -⟩, -⟩ := measuring_words (accBits acc)
    rwa [accuracyOf_accBits wf] at word
  | rdpa acc =>
    obtain ⟨⟨-, -, word⟩, -⟩ := measuring_words (accBits acc)
    rwa [accuracyOf_accBits wf] at word

/-- A legal word stands for a well-formed command: its accuracy, if it has one, is the symbol of an ACC value. -/
theorem wf_of_decode {c : Byte} {i : Instr} (legal : decode c = .ok i) : i.wf = true := by
  unfold decode at legal
  split at legal
  case h_8 => cases legal
  case h_1 | h_2 | h_6 | h_7 =>
    obtain ⟨-, rfl⟩ := formatN_eq_ok_iff.mp legal
    rfl
  case h_3 | h_4 | h_5 =>
    obtain ⟨-, rfl⟩ := formatM_eq_ok_iff.mp legal
    exact accuracyOf_wf _

/-- Settles O3: `decode_encode`, and for the other direction the two halves `wf_of_decode` and `encode_of_decode`. -/
theorem decodeAndEncodeAgree : Obligations.DecodeAndEncodeAgree :=
  ⟨fun _ => decode_encode, fun _ _ legal => ⟨wf_of_decode legal, encode_of_decode legal⟩⟩

end Sys2Proof.Machine
end

section
/-! What one micro-step can do (spec 40_sequencer.md sections 2 and 3; 41 to 43), said once: one constructor per micro-step and
outcome. The properties of whole commands below are case splits on it. -/

namespace Sys2Proof.Machine

/-- The micro-steps that raise TransportIOError when their read or write fails (R76). -/
def ioPositions : List Upc := [.uRdid, .uRdcal, .uTrig, .uPoll, .uData]

/-- The block after the micro-step of `b` that has heard an answer: which micro-step it was, and with which outcome. -/
inductive MicroStep (b : Block) : Answer → Block → Prop where
  | opened {st : Stage} {next : Upc} {x : List Byte} (position : b.upc = .uOpen) (stage : currentStage b = some st)
      (after : afterOpen st = some next) : MicroStep b (.ok x) { b with handleOpen := true, upc := next }
  | openFails {st : Stage} {next : Upc} (position : b.upc = .uOpen) (stage : currentStage b = some st)
      (after : afterOpen st = some next) : MicroStep b .err (failNow { b with errCode := .transportOpenError })
  | matched (position : b.upc = .uRdid) : MicroStep b (.ok [signature]) { b with idMatch := true, upc := .uClose }
  | mismatched {v : Byte} (position : b.upc = .uRdid) (differs : v ≠ signature) :
      MicroStep b (.ok [v]) { b with idMatch := false, errCode := .identityMismatch, upc := .uClose }
  | calibrated {bs : List Byte} (position : b.upc = .uRdcal) (whole : bs.length = calibLen) :
      MicroStep b (.ok bs) { b with cal := decodeCal bs, calLoaded := true, upc := .uClose }
  | triggered {x : List Byte} {q : Quantity} (position : b.upc = .uTrig) (quantity : currentQuantity b = some q) :
      MicroStep b (.ok x) { b with phase := .triggered, pollCnt := 0, upc := .uPoll }
  | polled {v : Byte} (position : b.upc = .uPoll) :
      MicroStep b (.ok [v])
        { b with phase := .polling, pollCnt := b.pollCnt + 1, upc := if measuring v then .uDelay else .uData }
  | retries {a : Answer} (position : b.upc = .uDelay) (budget : b.pollCnt.toNat < pollMax) :
      MicroStep b a { b with upc := .uPoll }
  | timesOut {a : Answer} (position : b.upc = .uDelay) (enabled : b.timeoutEn = true) :
      MicroStep b a { b with pollExhausted := true, errCode := .timeoutError, upc := .uAbort }
  | givesUp {a : Answer} (position : b.upc = .uDelay) : MicroStep b a { b with pollExhausted := true, upc := .uData }
  | measured {q : Quantity} {b0 b1 b2 : Byte} (position : b.upc = .uData) (quantity : currentQuantity b = some q) :
      MicroStep b (.ok [b0, b1, b2]) { setAdc q ((decodeRaw b0 b1 b2).setWidth 32) b with upc := .uClose }
  | ioFails {a : Answer} (position : b.upc ∈ ioPositions) :
      MicroStep b a { b with errCode := .transportIOError, upc := .uAbort }
  | closed {a : Answer} (position : b.upc = .uClose) : MicroStep b a (stageDone { b with handleOpen := false })
  | aborted {a : Answer} (position : b.upc = .uAbort) : MicroStep b a (releaseAndFail b)
  | compensatedT {a : Answer} (position : b.upc = .uCompT) : MicroStep b a (uCompT b)
  | compensatedP {a : Answer} (position : b.upc = .uCompP) : MicroStep b a (uCompP b)

theorem microStep_of_effectOf {b b' : Block} {a : Answer} (effect : effectOf a b = some b') : MicroStep b a b' := by
  unfold effectOf at effect
  split at effect
  case h_1 => cases effect
  case h_2 position =>
    obtain ⟨next, bound, rfl⟩ := Option.map_eq_some_iff.mp effect
    obtain ⟨st, stage, after⟩ := Option.bind_eq_some_iff.mp bound
    cases a with
    | ok x => exact .opened position stage after
    | err => exact .openFails position stage after
  case h_3 position =>
    cases effect
    unfold uRdid
    split
    · split
      · next same => subst same; exact .matched position
      · next differs => exact .mismatched position differs
    · exact .ioFails (by simp [ioPositions, position])
  case h_4 position =>
    cases effect
    unfold uRdcal
    split
    · split
      · next whole => exact .calibrated position whole
      · exact .ioFails (by simp [ioPositions, position])
    · exact .ioFails (by simp [ioPositions, position])
  case h_5 position =>
    obtain ⟨q, quantity, rfl⟩ := Option.map_eq_some_iff.mp effect
    cases a with
    | ok x => exact .triggered position quantity
    | err => exact .ioFails (by simp [ioPositions, position])
  case h_6 position =>
    cases effect
    unfold uPoll
    split
    · exact .polled position
    · exact .ioFails (by simp [ioPositions, position])
  case h_7 position =>
    cases effect
    unfold uDelay
    split
    · next budget => exact .retries position budget
    · split
      · next enabled => exact .timesOut position enabled
      · exact .givesUp position
  case h_8 position =>
    obtain ⟨q, quantity, rfl⟩ := Option.map_eq_some_iff.mp effect
    unfold uData
    split
    · exact .measured position quantity
    · exact .ioFails (by simp [ioPositions, position])
  case h_9 position => cases effect; exact .closed position
  case h_10 position => cases effect; exact .aborted position
  case h_11 position => cases effect; exact .compensatedT position
  case h_12 position => cases effect; exact .compensatedP position

end Sys2Proof.Machine
end

section
/-! The control state of a command (spec 10_state.md R24; 40_sequencer.md R71 to R77): what holds of a block that runs a command and
of one whose command has ended, whatever handle and poll count it began with, and that every micro-step keeps it. -/

namespace Sys2Proof.Machine

/-! ## Positions -/

/-- The micro-steps that only a measurement has (R71). -/
def measurementPositions : List Upc := [.uTrig, .uPoll, .uDelay, .uData]

/-- The control position is one of the stage's micro-steps, or the release after a failure of a bus stage (R71, R76). -/
def InStage (b : Block) (st : Stage) : Prop :=
  currentStage b = some st ∧ (b.upc ∈ st.microSteps ∨ st.usesBus = true ∧ b.upc = .uAbort)

theorem positioned_iff {b : Block} : positioned b = true ↔ ∃ st, InStage b st := by
  unfold positioned
  cases stage : currentStage b <;> simp [InStage, stage]

section
variable {st : Stage}

theorem uNone_notMem_microSteps : .uNone ∉ st.microSteps := by cases st <;> decide

theorem uAbort_notMem_microSteps : .uAbort ∉ st.microSteps := by cases st <;> decide

theorem uOpen_mem_microSteps : .uOpen ∈ st.microSteps ↔ st.usesBus = true := by cases st <;> decide

theorem uClose_mem_microSteps : .uClose ∈ st.microSteps ↔ st.usesBus = true := by cases st <;> decide

theorem uRdid_mem_microSteps : .uRdid ∈ st.microSteps ↔ st = .sId := by cases st <;> decide

theorem uRdcal_mem_microSteps : .uRdcal ∈ st.microSteps ↔ st = .sCal := by cases st <;> decide

theorem uCompT_mem_microSteps : .uCompT ∈ st.microSteps ↔ st = .sCompT := by cases st <;> decide

theorem uCompP_mem_microSteps : .uCompP ∈ st.microSteps ↔ st = .sCompP := by cases st <;> decide

theorem measurement_mem_microSteps {u : Upc} (measures : u ∈ measurementPositions) :
    u ∈ st.microSteps ↔ st.quantity.isSome = true := by
  revert u
  cases st <;> decide

theorem usesBus_of_quantity (measures : st.quantity.isSome = true) : st.usesBus = true := by
  revert measures
  cases st <;> decide

/-- Every bus stage has a micro-step that follows its open (R73). -/
theorem exists_afterOpen (bus : st.usesBus = true) : ∃ next, afterOpen st = some next := by
  cases st with
  | sId | sCal | sMeasT | sMeasP => exact ⟨_, rfl⟩
  | sCompT | sCompP => cases bus

theorem afterOpen_mem_microSteps {next : Upc} (after : afterOpen st = some next) :
    next ∈ st.microSteps ∧ next ∈ handlePositions ∧ next ≠ .uPoll := by
  revert next
  cases st <;> simp [afterOpen, Stage.microSteps, handlePositions]

/-- A stage is entered at a micro-step of its own, without the handle (R72). -/
theorem entryUpc_position :
    entryUpc st ∈ st.microSteps ∧ entryUpc st ∉ handlePositions ∧ entryUpc st ≠ .uPoll ∧ entryUpc st ≠ .uAbort := by
  cases st <;> decide

/-- A micro-step that can raise TransportIOError is one of a bus stage. -/
theorem usesBus_of_ioPosition {u : Upc} (io : u ∈ ioPositions) (position : u ∈ st.microSteps) : st.usesBus = true := by
  revert u
  cases st <;> decide

end

/-- At a position other than the release, the block is at a micro-step of its stage. -/
theorem InStage.mem {b : Block} {st : Stage} {u : Upc} (at_stage : InStage b st) (position : b.upc = u)
    (going_on : u ≠ .uAbort) : u ∈ st.microSteps := by
  obtain ⟨-, mem | ⟨-, abort⟩⟩ := at_stage
  · exact position ▸ mem
  · exact absurd (position.symm.trans abort) going_on

/-- A block at a micro-step that only a measurement has is in a measurement stage. -/
theorem InStage.measures {b : Block} {st : Stage} {u : Upc} (at_stage : InStage b st) (position : b.upc = u)
    (measures : u ∈ measurementPositions) : st.quantity.isSome = true :=
  (measurement_mem_microSteps measures).mp (at_stage.mem position (by rintro rfl; revert measures; decide))

theorem InStage.unique {b : Block} {st st' : Stage} (at_stage : InStage b st) (stage : currentStage b = some st') : st = st' :=
  Option.some.inj (at_stage.1.symm.trans stage)

/-! ## Running and ended blocks -/

/-- A block that runs a command: what `Inv` says of a busy block, but for the handle and the bound of an old poll count. -/
structure Running (b : Block) : Prop where
  busy : b.busy = true
  not_done : b.done = false
  at_stage : ∃ st, InStage b st
  latched :
    (decode b.cmd).toOption.isSome = true ∧ b.op = opcField b.cmd ∧ b.osrs = mapAccuracy (accField b.cmd)
  poll_entry : b.upc = .uPoll → b.pollCnt.toNat ≤ 29
  abort_code : b.upc = .uAbort → b.errCode = .transportIOError ∨ b.errCode = .timeoutError
  running_code : b.upc ≠ .uAbort → b.errCode.isFailure = false

/-- A block whose command has ended: PHASE says whether with a failure, and only a bus stage ends with one (R75 to R77, R125). -/
structure Ended (b : Block) : Prop where
  idle : b.busy = false
  done : b.done = true
  upc : b.upc = .uNone
  phase : b.phase = if b.errCode.isFailure then .failed else .complete
  failed_in : b.errCode.isFailure = true → ∃ st, currentStage b = some st ∧ st.usesBus = true

/-- The two blocks run the same command and are in the same stage of it. -/
structure SameControl (b c : Block) : Prop where
  busy : c.busy = b.busy := by rfl
  done : c.done = b.done := by rfl
  cmd : c.cmd = b.cmd := by rfl
  op : c.op = b.op := by rfl
  osrs : c.osrs = b.osrs := by rfl
  stage : c.stage = b.stage := by rfl

theorem SameControl.currentStage {b c : Block} (same : SameControl b c) : currentStage c = currentStage b :=
  currentStage_of same.op same.stage

theorem sameControl_setAdc (q : Quantity) (v : Word) (b : Block) : SameControl b { setAdc q v b with upc := .uClose } := by
  cases q <;> exact {}

@[simp] theorem setAdc_errCode (q : Quantity) (v : Word) (b : Block) : (setAdc q v b).errCode = b.errCode := by cases q <;> rfl

/-- No command has more stages than STAGE can count. -/
theorem stageList_length_le : ∀ op : BitVec 4, (stageList op).length ≤ 5 := by decide

/-- STAGE counts up to the next stage without wrapping. -/
theorem stage_succ_toNat {b : Block} {st : Stage} (following : (stageList b.op)[b.stage.toNat + 1]? = some st) :
    (b.stage + 1).toNat = b.stage.toNat + 1 := by
  have in_list : b.stage.toNat + 1 < (stageList b.op).length := (List.getElem?_eq_some_iff.mp following).1
  have short := stageList_length_le b.op
  rw [BitVec.toNat_add]
  exact Nat.mod_eq_of_lt (by simp; omega)

/-- The next stage is the one STAGE counts next (R74). -/
theorem currentStage_advance {b : Block} {st : Stage} (following : (stageList b.op)[b.stage.toNat + 1]? = some st) :
    currentStage { b with stage := b.stage + 1 } = some st := by
  rw [← following, ← stage_succ_toNat following]
  rfl

namespace Running

variable {b c : Block} {st : Stage}

/-- A micro-step that leaves the command in its stage. -/
theorem goesOn (run : Running b) (u : Upc) (stage : currentStage b = some st) (same : SameControl b c)
    (upc : c.upc = u) (position : u ∈ st.microSteps) (polls : u = .uPoll → c.pollCnt.toNat ≤ 29)
    (code : c.errCode.isFailure = false) : Running c where
  busy := same.busy.trans run.busy
  not_done := same.done.trans run.not_done
  at_stage := ⟨st, same.currentStage.trans stage, .inl (upc ▸ position)⟩
  latched := by rw [same.cmd, same.op, same.osrs]; exact run.latched
  poll_entry := fun poll => polls (upc.symm.trans poll)
  abort_code := fun abort => absurd (upc.symm.trans abort ▸ position) uAbort_notMem_microSteps
  running_code := fun _ => code

/-- A micro-step that raises an error while the handle is held (R76). -/
theorem raises (run : Running b) (stage : currentStage b = some st) (bus : st.usesBus = true) (same : SameControl b c)
    (position : c.upc = .uAbort) (code : c.errCode = .transportIOError ∨ c.errCode = .timeoutError) : Running c where
  busy := same.busy.trans run.busy
  not_done := same.done.trans run.not_done
  at_stage := ⟨st, same.currentStage.trans stage, .inr ⟨bus, position⟩⟩
  latched := by rw [same.cmd, same.op, same.osrs]; exact run.latched
  poll_entry := by simp [position]
  abort_code := fun _ => code
  running_code := fun other => absurd position other

/-- The end of a stage: the next one is entered, or the command ends Complete (R74, R75). -/
theorem finishesStage (run : Running b) (same : SameControl b c) (code : c.errCode.isFailure = false) :
    Running (stageDone c) ∨ Ended (stageDone c) := by
  cases following : (stageList c.op)[c.stage.toNat + 1]? with
  | some st =>
    obtain ⟨position, -, not_poll, not_abort⟩ := entryUpc_position (st := st)
    rw [stageDone_next following]
    exact .inl
      { busy := same.busy.trans run.busy
        not_done := same.done.trans run.not_done
        at_stage := ⟨st, currentStage_advance following, .inl position⟩
        latched := by
          simp only [enterStage_cmd, enterStage_op, enterStage_osrs, same.cmd, same.op, same.osrs]
          exact run.latched
        poll_entry := fun poll => absurd poll not_poll
        abort_code := fun abort => absurd abort not_abort
        running_code := fun _ => code }
  | none =>
    rw [stageDone_last following]
    exact .inr
      { idle := rfl, done := rfl, upc := rfl, phase := by simp [code], failed_in := by simp [code] }

/-- A command that ends Failed (R76, R77). -/
theorem fails (stage : currentStage b = some st) (bus : st.usesBus = true) (failure : b.errCode.isFailure = true) :
    Ended (failNow b) where
  idle := rfl
  done := rfl
  upc := rfl
  phase := by simp [failure]
  failed_in _ := ⟨st, stage, bus⟩

/-- The next poll count, of a block that is about to poll. -/
theorem pollCnt_succ_toNat (run : Running b) (position : b.upc = .uPoll) :
    (b.pollCnt + 1).toNat = b.pollCnt.toNat + 1 := by
  have entry := run.poll_entry position
  rw [BitVec.toNat_add]
  exact Nat.mod_eq_of_lt (by simp; omega)

theorem code_at (run : Running b) {u : Upc} (position : b.upc = u) (going_on : u ≠ .uAbort) : b.errCode.isFailure = false :=
  run.running_code (position ▸ going_on)

theorem keeps {b' : Block} {a : Answer} (run : Running b) (step : MicroStep b a b') : Running b' ∨ Ended b' := by
  obtain ⟨st, at_stage⟩ := run.at_stage
  have stage := at_stage.1
  have on_measuring {u v : Upc} (position : b.upc = u) (measures : u ∈ measurementPositions)
      (measures' : v ∈ measurementPositions) : v ∈ st.microSteps :=
    (measurement_mem_microSteps measures').mpr (at_stage.measures position measures)
  cases step with
  | opened position stage' after =>
    obtain rfl := at_stage.unique stage'
    obtain ⟨next, -, not_poll⟩ := afterOpen_mem_microSteps after
    exact .inl (run.goesOn _ stage {} rfl next (absurd · not_poll) (run.code_at position (by decide)))
  | openFails position =>
    have bus := uOpen_mem_microSteps.mp (at_stage.mem position (by decide))
    exact .inr (fails (b := { b with errCode := .transportOpenError }) stage bus rfl)
  | matched position =>
    obtain rfl := uRdid_mem_microSteps.mp (at_stage.mem position (by decide))
    exact .inl (run.goesOn .uClose stage {} rfl (by decide) nofun (run.code_at position (by decide)))
  | mismatched position =>
    obtain rfl := uRdid_mem_microSteps.mp (at_stage.mem position (by decide))
    exact .inl (run.goesOn .uClose stage {} rfl (by decide) nofun rfl)
  | calibrated position =>
    obtain rfl := uRdcal_mem_microSteps.mp (at_stage.mem position (by decide))
    exact .inl (run.goesOn .uClose stage {} rfl (by decide) nofun (run.code_at position (by decide)))
  | triggered position =>
    exact .inl (run.goesOn .uPoll stage {} rfl (on_measuring position (by decide) (by decide))
      (fun _ => by simp) (run.code_at position (by decide)))
  | @polled v position =>
    refine .inl (run.goesOn (if measuring v then .uDelay else .uData) stage {} rfl ?_ ?_ (run.code_at position (by decide)))
    · cases measuring v <;> exact on_measuring position (by decide) (by decide)
    · cases measuring v <;> nofun
  | retries position budget =>
    exact .inl (run.goesOn .uPoll stage {} rfl (on_measuring position (by decide) (by decide))
      (fun _ => Nat.le_of_lt_succ budget) (run.code_at position (by decide)))
  | timesOut position =>
    have bus := usesBus_of_quantity (at_stage.measures position (by decide))
    exact .inl (run.raises stage bus {} rfl (.inr rfl))
  | givesUp position =>
    exact .inl (run.goesOn .uData stage {} rfl (on_measuring position (by decide) (by decide)) nofun
      (run.code_at position (by decide)))
  | measured position =>
    have bus := usesBus_of_quantity (at_stage.measures position (by decide))
    exact .inl (run.goesOn .uClose stage (sameControl_setAdc ..) rfl (uClose_mem_microSteps.mpr bus) nofun
      ((congrArg _ (setAdc_errCode ..)).trans (run.code_at position (by decide))))
  | ioFails io =>
    have going_on : b.upc ≠ .uAbort := by rintro abort; rw [abort] at io; revert io; decide
    have bus := usesBus_of_ioPosition io (at_stage.mem rfl going_on)
    exact .inl (run.raises stage bus {} rfl (.inl rfl))
  | closed position => exact run.finishesStage {} (run.code_at position (by decide))
  | aborted position =>
    obtain ⟨-, mem | ⟨bus, -⟩⟩ := at_stage
    · exact absurd (position ▸ mem) uAbort_notMem_microSteps
    · have failure : b.errCode.isFailure = true := by rcases run.abort_code position with code | code <;> rw [code] <;> rfl
      exact .inr (fails (b := { b with handleOpen := false }) stage bus failure)
  | compensatedT position => exact run.finishesStage {} (run.code_at position (by decide))
  | compensatedP position =>
    refine run.finishesStage {} ?_
    have code := run.code_at position (by decide)
    cases invalid : (compP (pressOperands b)).2
    · simpa [invalid] using code
    · simp [ErrCode.isFailure]

end Running

/-! ## Acceptance -/

/-- The word of every command is legal (R53). -/
theorem decode_encode_isSome (i : Instr) : (decode (encode i)).toOption.isSome = true := by
  have legal : Laws.EncodesLegal.Statement i := by
    cases i with
    | verify => exact Laws.EncodesLegal.verify
    | calib => exact Laws.EncodesLegal.calib
    | rdut acc => exact Laws.EncodesLegal.rdut acc
    | rdup acc => exact Laws.EncodesLegal.rdup acc
    | rdpa acc => exact Laws.EncodesLegal.rdpa acc
    | compt => exact Laws.EncodesLegal.compt
    | compp => exact Laws.EncodesLegal.compp
  obtain ⟨-, -, j, word, -⟩ := legal
  rw [word]
  rfl

/-- A command that has just been accepted is at the first micro-step of its first stage (R54, R72). -/
theorem inStage_accepted (i : Instr) (b : Block) : InStage (acceptLegal (encode i) (firstStage i) b) (firstStage i) :=
  ⟨(currentStage_of (opcField_encode i) rfl).trans (firstStage_mem i), .inl entryUpc_position.1⟩

theorem running_accepted (i : Instr) (b : Block) : Running (acceptLegal (encode i) (firstStage i) b) := by
  obtain ⟨-, -, not_poll, not_abort⟩ := entryUpc_position (st := firstStage i)
  exact
    { busy := rfl
      not_done := rfl
      at_stage := ⟨_, inStage_accepted i b⟩
      latched := ⟨decode_encode_isSome i, rfl, rfl⟩
      poll_entry := fun poll => absurd poll not_poll
      abort_code := fun abort => absurd abort not_abort
      running_code := fun _ => rfl }

end Sys2Proof.Machine
end

section
/-! The invariant (spec 10_state.md R24) as the control state, the handle and the poll count: every step keeps it and never stops,
and with it every step but a reset keeps the transport handles balanced (20_memory.md R42). -/

namespace Sys2Proof.Machine

/-! ## The handle and the poll count -/

/-- R24 (c): the handle is held exactly at the positions that need it. -/
def HandleHeld (b : Block) : Prop := b.handleOpen = true ↔ b.upc ∈ handlePositions

theorem HandleHeld.open_at {b : Block} {u : Upc} (held : HandleHeld b) (position : b.upc = u) (needs : u ∈ handlePositions) :
    b.handleOpen = true :=
  held.mpr (position ▸ needs)

theorem HandleHeld.closed_at {b : Block} {u : Upc} (held : HandleHeld b) (position : b.upc = u) (needs : u ∉ handlePositions) :
    b.handleOpen = false := by
  rw [← position] at needs
  exact Bool.eq_false_iff.mpr fun is_open => needs (held.mp is_open)

theorem handleHeld_of_closed {b : Block} (closed : b.handleOpen = false) (position : b.upc ∉ handlePositions) : HandleHeld b := by
  simp [HandleHeld, closed, position]

theorem handleHeld_of_open {b : Block} (is_open : b.handleOpen = true) (position : b.upc ∈ handlePositions) : HandleHeld b := by
  simp [HandleHeld, is_open, position]

/-- The end of a stage leads to a position without the handle. -/
theorem stageDone_upc_notMem (b : Block) : (stageDone b).upc ∉ handlePositions := by
  unfold stageDone
  split
  · exact entryUpc_position.2.1
  · show Upc.uNone ∉ handlePositions
    decide

@[simp] theorem setAdc_handleOpen (q : Quantity) (v : Word) (b : Block) : (setAdc q v b).handleOpen = b.handleOpen := by
  cases q <;> rfl

theorem handlePositions_of_io {u : Upc} (io : u ∈ ioPositions) : u ∈ handlePositions := by
  revert u
  decide

theorem HandleHeld.keeps {b b' : Block} {a : Answer} (held : HandleHeld b) (step : MicroStep b a b') : HandleHeld b' := by
  cases step with
  | opened _ _ after => exact handleHeld_of_open rfl (afterOpen_mem_microSteps after).2.1
  | openFails position => exact handleHeld_of_closed (held.closed_at position (by decide)) (by simp [handlePositions])
  | matched position | mismatched position | calibrated position | triggered position | retries position | timesOut position
  | givesUp position =>
    exact handleHeld_of_open (held.open_at position (by decide)) (by simp [handlePositions])
  | @polled v position =>
    refine handleHeld_of_open (held.open_at position (by decide)) ?_
    cases measuring v <;> simp [handlePositions]
  | measured position =>
    exact handleHeld_of_open (by simpa using held.open_at position (by decide)) (by simp [handlePositions])
  | ioFails io => exact handleHeld_of_open (held.mpr (handlePositions_of_io io)) (by simp [handlePositions])
  | closed => exact handleHeld_of_closed (by simp) (stageDone_upc_notMem _)
  | aborted => exact handleHeld_of_closed rfl (by simp [handlePositions])
  | compensatedT position | compensatedP position =>
    exact handleHeld_of_closed (by simpa [uCompT, uCompP] using held.closed_at position (by decide)) (stageDone_upc_notMem _)

/-- R24 (e): no micro-step counts beyond 30. -/
theorem Running.pollCnt_le {b b' : Block} {a : Answer} (run : Running b) (bound : b.pollCnt.toNat ≤ 30)
    (step : MicroStep b a b') : b'.pollCnt.toNat ≤ 30 := by
  cases step with
  | triggered => simp
  | polled position =>
    have entry := run.poll_entry position
    have count := run.pollCnt_succ_toNat position
    show (b.pollCnt + 1).toNat ≤ 30
    omega
  | @measured q => cases q <;> exact bound
  | closed => simpa using bound
  | compensatedT => simpa [uCompT] using bound
  | compensatedP => simpa [uCompP] using bound
  | opened | openFails | matched | mismatched | calibrated | retries | timesOut | givesUp | ioFails | aborted => exact bound

/-! ## The invariant -/

/-- What the invariant says of the control state of a block that is not busy. -/
structure Resting (b : Block) : Prop where
  idle : b.busy = false
  upc : b.upc = .uNone
  failed : b.errCode.isFailure = true → b.phase = .failed

theorem Ended.resting {b : Block} (ended : Ended b) : Resting b where
  idle := ended.idle
  upc := ended.upc
  failed failure := by rw [ended.phase, failure]; rfl

/-- The codes that are failures (R16), as the invariant lists them. -/
theorem isFailure_iff {e : ErrCode} : e.isFailure = true ↔
    (e = .transportOpenError ∨ e = .transportIOError ∨ e = .timeoutError) ∨ e = .illegalCommand := by
  cases e <;> decide

theorem Running.upc_ne_uNone {b : Block} (run : Running b) : b.upc ≠ .uNone := by
  intro none
  obtain ⟨st, at_stage⟩ := run.at_stage
  exact uNone_notMem_microSteps (at_stage.mem none (by decide))

theorem Running.inv {b : Block} (run : Running b) (held : HandleHeld b) (bound : b.pollCnt.toNat ≤ 30) : Inv b where
  idle_iff := iff_of_false (by simp [run.busy]) run.upc_ne_uNone
  idle_no_handle := by simp [run.busy]
  handle_iff := held
  compute_no_handle := by
    rintro (position | position) <;> exact held.closed_at position (by decide)
  poll_bound := bound
  busy_ranges _ := by
    obtain ⟨legal, op, osrs⟩ := run.latched
    obtain ⟨i, word⟩ : ∃ i, decode b.cmd = .ok i := by
      cases word : decode b.cmd with
      | ok i => exact ⟨i, rfl⟩
      | error r => simp [word, Except.toOption] at legal
    rw [op, osrs, (fields_of_decode word).1]
    exact ⟨opcode_range i, mapAccuracy_range _⟩
  done_idle := by simp [run.not_done]
  failed_code := by simp [run.busy]
  illegal_code illegal := by
    by_cases abort : b.upc = .uAbort
    · rcases run.abort_code abort with code | code <;> simp [code] at illegal
    · exact absurd (run.running_code abort) (by simp [illegal, ErrCode.isFailure])
  at_stage _ := positioned_iff.mpr run.at_stage
  latched _ := run.latched
  poll_entry := run.poll_entry
  abort_code := run.abort_code
  running_code _ := run.running_code

theorem Resting.inv {b : Block} (rest : Resting b) (held : HandleHeld b) (bound : b.pollCnt.toNat ≤ 30) : Inv b where
  idle_iff := iff_of_true rest.idle rest.upc
  idle_no_handle _ := held.closed_at rest.upc (by decide)
  handle_iff := held
  compute_no_handle _ := held.closed_at rest.upc (by decide)
  poll_bound := bound
  busy_ranges := by simp [rest.idle]
  done_idle _ := rest.idle
  failed_code code _ := rest.failed (isFailure_iff.mpr (.inl code))
  illegal_code code := rest.failed (isFailure_iff.mpr (.inr code))
  at_stage := by simp [rest.idle]
  latched := by simp [rest.idle]
  poll_entry := by simp [rest.upc]
  abort_code := by simp [rest.upc]
  running_code := by simp [rest.idle]

theorem Inv.running {b : Block} (inv : Inv b) (busy : b.busy = true) : Running b where
  busy := busy
  not_done := Bool.eq_false_iff.mpr fun done => by simp [inv.done_idle done] at busy
  at_stage := positioned_iff.mp (inv.at_stage busy)
  latched := inv.latched busy
  poll_entry := inv.poll_entry
  abort_code := inv.abort_code
  running_code := inv.running_code busy

theorem Inv.resting {b : Block} (inv : Inv b) (idle : b.busy = false) : Resting b where
  idle := idle
  upc := inv.idle_iff.mp idle
  failed failure := by
    rcases isFailure_iff.mp failure with code | code
    · exact inv.failed_code code idle
    · exact inv.illegal_code code

theorem Inv.keeps {b b' : Block} {a : Answer} (inv : Inv b) (busy : b.busy = true) (step : MicroStep b a b') : Inv b' := by
  have held : HandleHeld b' := HandleHeld.keeps inv.handle_iff step
  have bound := (inv.running busy).pollCnt_le inv.poll_bound step
  rcases (inv.running busy).keeps step with run | ended
  · exact run.inv held bound
  · exact ended.resting.inv held bound

/-! ## Inputs -/

/-- A register write touches no element the invariant speaks of. -/
theorem storeReg_control (i : BitVec 5) (v : Word) (b : Block) :
    (storeReg i v b).upc = b.upc ∧ (storeReg i v b).handleOpen = b.handleOpen ∧ (storeReg i v b).pollCnt = b.pollCnt ∧
      (storeReg i v b).errCode = b.errCode ∧ (storeReg i v b).phase = b.phase := by
  unfold storeReg
  split <;> try split
  all_goals exact ⟨rfl, rfl, rfl, rfl, rfl⟩

theorem inv_accepted {b : Block} (inv : Inv b) (idle : b.busy = false) (i : Instr) :
    Inv (acceptLegal (encode i) (firstStage i) b) :=
  (running_accepted i b).inv (handleHeld_of_closed (inv.idle_no_handle idle) entryUpc_position.2.1) inv.poll_bound

theorem inv_acceptIllegal {b : Block} (inv : Inv b) (idle : b.busy = false) (c : Byte) : Inv (acceptIllegal c b) :=
  Resting.inv ⟨idle, (inv.resting idle).upc, fun _ => rfl⟩ inv.handle_iff inv.poll_bound

theorem inv_storeReg {b : Block} (inv : Inv b) (idle : b.busy = false) (i : BitVec 5) (v : Word) : Inv (storeReg i v b) := by
  obtain ⟨upc, handle, count, code, phase⟩ := storeReg_control i v b
  obtain ⟨-, at_rest, failed⟩ := inv.resting idle
  refine Resting.inv ⟨?_, ?_, ?_⟩ ?_ ?_
  · rwa [storeReg_busy]
  · rwa [upc]
  · rwa [code, phase]
  · rw [HandleHeld, handle, upc]; exact inv.handle_iff
  · rw [count]; exact inv.poll_bound

/-- Settles O15: after reset the block rests, without handle and without a count. -/
theorem resetMeetsTheInvariant : Obligations.ResetMeetsTheInvariant :=
  Resting.inv ⟨rfl, rfl, nofun⟩ (handleHeld_of_closed rfl (by decide)) (by decide)

theorem InputChange.inv {x : Input} {b b' : Block} (inv : Inv b) (change : InputChange x b b') : Inv b' := by
  cases change with
  | unchanged => exact inv
  | command i =>
    unfold issue
    split
    · exact inv
    · next idle => exact inv_accepted inv (by simpa using idle) i
  | illegal c =>
    unfold issueIllegal
    split
    · exact inv
    · next idle => exact inv_acceptIllegal inv (by simpa using idle) c
  | register i v =>
    unfold hostWriteReg
    split
    · exact inv
    · next idle => exact inv_storeReg inv (by simpa using idle) i v
  | reset => exact resetMeetsTheInvariant

/-! ## Steps -/

/-- A property of the state that an input may break only by a reset and that every engine step keeps is kept by every other step. -/
theorem step_keeps {P : State → Prop} {s t : State} (holds : P s)
    (input : ∀ (x : Turn) (rest : List Turn) (u : State), s.inputs = x :: rest → InputChange x.input s.blk u.blk →
      u.trace = s.trace → P u)
    (engine : ∀ u u', P u → engineStep u = .next u' → P u') (stepped : step s = .next t) : P t := by
  cases inputs : s.inputs with
  | nil => exact engine s t holds (step_engine inputs ▸ stepped)
  | cons x rest =>
    obtain ⟨u, run, change, -, same_trace, -⟩ := step_takes_input inputs
    exact runEngine_invariant engine (input x rest u inputs change same_trace) (run ▸ stepped)

theorem engineStep_keeps_inv (u u' : State) (inv : Inv u.blk) (stepped : engineStep u = .next u') : Inv u'.blk := by
  rcases engineStep_cases stepped with
    rfl | ⟨b, busy, ⟨-, effect, rfl⟩ | ⟨e, -, -, effect, rfl⟩ | ⟨e, a, rest, -, -, -, effect, rfl⟩⟩
  · exact inv
  all_goals exact inv.keeps busy (microStep_of_effectOf effect)

/-- Settles O16: an input leaves a block that meets the invariant, and so does each micro-step of the turn. -/
theorem everyStepKeepsTheInvariant : Obligations.EveryStepKeepsTheInvariant := by
  intro s t inv stepped
  exact step_keeps (P := fun u => Inv u.blk) inv (fun _ _ _ _ change _ => change.inv inv) engineStep_keeps_inv stepped

/-! ## No fault -/

/-- At every control position of a running command the spec gives a micro-step (R71). -/
theorem Running.effectOf_ne_none {b : Block} (run : Running b) (a : Answer) : ∃ b', effectOf a b = some b' := by
  obtain ⟨st, at_stage⟩ := run.at_stage
  have stage := at_stage.1
  have quantity {u : Upc} (position : b.upc = u) (measures : u ∈ measurementPositions) : ∃ q, currentQuantity b = some q := by
    obtain ⟨q, quantity⟩ := Option.isSome_iff_exists.mp (at_stage.measures position measures)
    exact ⟨q, by simp [currentQuantity, stage, quantity]⟩
  cases position : b.upc with
  | uNone => exact absurd position run.upc_ne_uNone
  | uOpen =>
    have bus := uOpen_mem_microSteps.mp (at_stage.mem position (by decide))
    obtain ⟨next, after⟩ := exists_afterOpen bus
    simp [effectOf, position, stage, after]
  | uTrig =>
    obtain ⟨q, quantity⟩ := quantity position (by decide)
    simp [effectOf, position, quantity]
  | uData =>
    obtain ⟨q, quantity⟩ := quantity position (by decide)
    simp [effectOf, position, quantity]
  | uRdid | uRdcal | uPoll | uDelay | uClose | uAbort | uCompT | uCompP => simp [effectOf, position]

/-- A running command's engine step gives a next state: the micro-step's, or the same while it waits for an answer. -/
theorem Running.engineStep_next {s : State} (run : Running s.blk) : ∃ s', engineStep s = .next s' := by
  have commits (a : Answer) (u : State) (same : u.blk = s.blk) : ∃ s', commit a u = .next s' := by
    obtain ⟨b, effect⟩ := run.effectOf_ne_none a
    exact ⟨{ u with blk := b }, by simp [commit, same, effect]⟩
  cases event : eventOf s.blk with
  | none => rw [engineStep_compute run.busy event]; exact commits _ _ rfl
  | some e =>
    cases answered : e.answered with
    | false => rw [engineStep_unanswered run.busy event answered]; exact commits _ _ rfl
    | true =>
      cases answers : s.answers with
      | nil => exact ⟨s, engineStep_waits run.busy event answered answers⟩
      | cons a rest => rw [engineStep_answered run.busy event answered answers]; exact commits _ _ rfl

theorem Inv.engineStep_next {s : State} (inv : Inv s.blk) : ∃ s', engineStep s = .next s' := by
  cases busy : s.blk.busy with
  | true => exact (inv.running busy).engineStep_next
  | false => exact ⟨s, engineStep_idle busy⟩

theorem Inv.runEngine_next {s : State} (inv : Inv s.blk) (n : Nat) : ∃ t, runEngine n s = .next t := by
  induction n generalizing s with
  | zero => exact ⟨s, rfl⟩
  | succ n ih =>
    obtain ⟨s', stepped⟩ := inv.engineStep_next
    rw [runEngine_succ stepped]
    exact ih (engineStep_keeps_inv s s' inv stepped)

/-- Settles O17: an input leaves a block that meets the invariant, and from there no run of the engine stops. -/
theorem invariantRulesOutTheFault : Obligations.InvariantRulesOutTheFault := by
  intro s inv
  cases inputs : s.inputs with
  | nil => rw [step_engine inputs]; exact inv.engineStep_next
  | cons x rest =>
    obtain ⟨u, run, change, -⟩ := step_takes_input inputs
    rw [run]
    exact (change.inv inv).runEngine_next _

/-! ## Balanced handles -/

/-- Only `U_OPEN` can obtain a handle (R37). -/
theorem opens_eq_false {b : Block} {e : Event} (event : eventOf b = some e) (not_open : b.upc ≠ .uOpen) (answer : Option Answer) :
    Exchange.opens ⟨e, answer⟩ = false := by
  unfold eventOf at event
  split at event
  case h_2 position => exact absurd position not_open
  case h_5 | h_8 => split at event <;> cases event; rfl
  all_goals cases event; try rfl

/-- Only `U_CLOSE` and `U_ABORT` release one (R74, R76). -/
theorem closes_iff {b : Block} {e : Event} (event : eventOf b = some e) (answer : Option Answer) :
    Exchange.closes ⟨e, answer⟩ = decide (b.upc = .uClose ∨ b.upc = .uAbort) := by
  unfold eventOf at event
  split at event
  case h_2 position | h_5 position | h_8 position => split at event <;> cases event; simp [Exchange.closes, position]
  all_goals next position => cases event; try simp [Exchange.closes, position]

/-- What a micro-step does to the handle: `U_OPEN` answered Ok obtains it, `U_CLOSE` and `U_ABORT` release it, nothing else touches it
(R73, R74, R76). -/
theorem MicroStep.handle {b b' : Block} {a : Answer} (held : HandleHeld b) (step : MicroStep b a b') :
    b'.handleOpen.toNat + (decide (b.upc = .uClose ∨ b.upc = .uAbort)).toNat =
      b.handleOpen.toNat + (decide (b.upc = .uOpen ∧ a ≠ .err)).toNat := by
  cases step with
  | opened position => simp [position, held.closed_at position (by decide)]
  | openFails position => simp [position]
  | matched position | mismatched position | calibrated position | triggered position | polled position | retries position
  | timesOut position | givesUp position | measured position =>
    simp [position]
  | ioFails io =>
    have quiet : ∀ u ∈ ioPositions, u ≠ .uOpen ∧ u ≠ .uClose ∧ u ≠ .uAbort := by decide
    obtain ⟨not_open, not_close, not_abort⟩ := quiet _ io
    simp [not_open, not_close, not_abort]
  | closed position | aborted position => simp [position, held.open_at position (by decide)]
  | compensatedT position => simp [position, uCompT]
  | compensatedP position => simp [position, uCompP]

/-- A micro-step's exchange obtains a handle exactly at `U_OPEN` answered Ok. -/
theorem opens_iff {b : Block} {e : Event} {a : Answer} (event : eventOf b = some e) :
    Exchange.opens ⟨e, if e.answered then some a else none⟩ = decide (b.upc = .uOpen ∧ a ≠ .err) := by
  by_cases position : b.upc = .uOpen
  · simp only [eventOf, position] at event
    split at event <;> cases event
    cases a <;> simp [Exchange.opens, Event.answered, position]
  · rw [opens_eq_false event position]
    simp [position]

/-- Only the compute micro-steps have no event (R70). -/
theorem compute_of_no_event {b b' : Block} {a : Answer} (event : eventOf b = none) (effect : effectOf a b = some b') :
    b.upc = .uCompT ∨ b.upc = .uCompP := by
  cases position : b.upc with
  | uCompT | uCompP => simp
  | uNone => simp [effectOf, position] at effect
  | uOpen =>
    obtain ⟨next, bound, -⟩ : ∃ next, (currentStage b).bind afterOpen = some next ∧ uOpen next a b = b' := by
      simpa only [effectOf, position, Option.map_eq_some_iff] using effect
    simp [eventOf, position, bound] at event
  | uTrig | uData =>
    cases quantity : currentQuantity b with
    | none => simp [effectOf, position, quantity] at effect
    | some q => simp [eventOf, position, quantity] at event
  | uRdid | uRdcal | uPoll | uDelay | uClose | uAbort => simp [eventOf, position] at event

theorem handlesBalanced_iff {s : State} : handlesBalanced s ↔
    s.trace.countP Exchange.opens = s.trace.countP Exchange.closes + s.blk.handleOpen.toNat := by
  unfold handlesBalanced
  cases s.blk.handleOpen <;> rfl

/-- A micro-step with an event keeps the balance: the event is recorded with the answer heard, if it has one. -/
theorem handlesBalanced_exchange {u : State} {b : Block} {e : Event} {a : Answer} {rest : List Answer}
    (balanced : handlesBalanced u) (held : HandleHeld u.blk) (event : eventOf u.blk = some e)
    (step : MicroStep u.blk a b) :
    handlesBalanced { u with
      blk := b, answers := rest, trace := u.trace ++ [⟨e, if e.answered then some a else none⟩] } := by
  have opens := opens_iff (a := a) event
  have closes := closes_iff event (if e.answered then some a else none)
  have handle := step.handle held
  rw [handlesBalanced_iff] at balanced ⊢
  rw [← opens, ← closes] at handle
  simp only [List.countP_append, List.countP_singleton, Bool.toNat, Bool.cond_eq_ite] at balanced handle ⊢
  omega

theorem engineStep_keeps_balance (u u' : State) (holds : Inv u.blk ∧ handlesBalanced u) (stepped : engineStep u = .next u') :
    Inv u'.blk ∧ handlesBalanced u' := by
  obtain ⟨inv, balanced⟩ := holds
  refine ⟨engineStep_keeps_inv u u' inv stepped, ?_⟩
  rcases engineStep_cases stepped with
    rfl | ⟨b, busy, ⟨event, effect, rfl⟩ | ⟨e, event, answered, effect, rfl⟩ |
      ⟨e, a, rest, event, answered, -, effect, rfl⟩⟩
  · exact balanced
  · have handle := (microStep_of_effectOf effect).handle inv.handle_iff
    rw [handlesBalanced_iff] at balanced ⊢
    rcases compute_of_no_event event effect with position | position <;> simp_all
  · simpa [answered] using
      handlesBalanced_exchange (rest := u.answers) balanced inv.handle_iff event (microStep_of_effectOf effect)
  · simpa [answered] using
      handlesBalanced_exchange (rest := rest) balanced inv.handle_iff event (microStep_of_effectOf effect)

/-- An input other than a reset neither takes nor releases a handle. -/
theorem InputChange.handleOpen {x : Input} {b b' : Block} (not_reset : x ≠ .reset) (change : InputChange x b b') :
    b'.handleOpen = b.handleOpen := by
  cases change with
  | unchanged => rfl
  | command i => unfold issue; split <;> rfl
  | illegal c => unfold issueIllegal; split <;> rfl
  | register i v => unfold hostWriteReg; split <;> [rfl; exact (storeReg_control i v b).2.1]
  | reset is_reset => exact absurd is_reset not_reset

/-- Settles O18: an input other than a reset leaves the handle and the trace alone, and every micro-step of the turn keeps the
balance. -/
theorem everyStepButResetKeepsHandlesBalanced : Obligations.EveryStepButResetKeepsHandlesBalanced := by
  intro s t inv balanced not_reset stepped
  refine (step_keeps (P := fun u => Inv u.blk ∧ handlesBalanced u) ⟨inv, balanced⟩ ?_ engineStep_keeps_balance stepped).2
  intro x rest u inputs change same_trace
  have handle : u.blk.handleOpen = s.blk.handleOpen :=
    change.handleOpen fun is_reset => not_reset x.room rest (by rw [inputs, ← is_reset])
  refine ⟨change.inv inv, ?_⟩
  rw [handlesBalanced, same_trace, handle]
  exact balanced

end Sys2Proof.Machine
end

section
/-! Whole commands, however far they have run and whatever the transport answers: what they leave unchanged (spec 41 to 44), the
codes they end with (60_exceptions.md R121), what a failed RDPA keeps (R116), and where a run may be cut (40_sequencer.md R79). -/

namespace Sys2Proof.Machine

/-! ## Following a command -/

/-- The current stage is one of the command's. -/
theorem InStage.mem_stageList {b : Block} {st : Stage} {op : BitVec 4} (at_stage : InStage b st) (same : b.op = op) :
    st ∈ stageList op :=
  same ▸ List.mem_of_getElem? at_stage.1

/-- A property of the block that acceptance establishes and every micro-step of the running command keeps holds however far the
command has run; and the block then runs the command still, or the command has ended. -/
theorem exec_follows {Q : Block → Prop} {i : Instr} {s t : State} (idle : s.blk.busy = false) (ran : exec i s = .next t)
    (accepted : Q (acceptLegal (encode i) (firstStage i) s.blk))
    (keeps : ∀ b b' a st, Running b → b.op = opcode i → InStage b st → Q b → effectOf a b = some b' → Q b') :
    (Running t.blk ∨ Ended t.blk) ∧ t.blk.op = opcode i ∧ Q t.blk := by
  refine exec_invariant (P := fun b => (Running b ∨ Ended b) ∧ b.op = opcode i ∧ Q b) idle ran
    ⟨.inl (running_accepted i _), opcField_encode i, accepted⟩ fun b b' a follows busy effect => ?_
  obtain ⟨run | ended, op, holds⟩ := follows
  · obtain ⟨st, at_stage⟩ := run.at_stage
    obtain ⟨⟨-, -, same_op, -, -⟩, -⟩ := effectOf_frame effect
    exact ⟨run.keeps (microStep_of_effectOf effect), same_op.trans op, keeps b b' a st run op at_stage holds effect⟩
  · exact absurd busy (by simp [ended.idle])

/-- Settles O20: both sides write the command's word and then run the engine, `m + n` micro-steps at once or `m` and then `n`. -/
theorem commandRunsSplitAnywhere : Obligations.CommandRunsSplitAnywhere := by
  intro i s t m n ran
  rw [exec_eq_command] at ran ⊢
  exact runEngine_add ran

/-! ## Frames -/

/-- What a command made of these stages leaves unchanged, from block `b` to block `c`. -/
structure StagesFrame (stages : List Stage) (b c : Block) : Prop where
  busAddr : c.busAddr = b.busAddr
  timeoutEn : c.timeoutEn = b.timeoutEn
  idMatch : .sId ∉ stages → c.idMatch = b.idMatch
  store : .sCal ∉ stages → c.cal = b.cal ∧ c.calLoaded = b.calLoaded
  adcT : .sMeasT ∉ stages → c.adcT = b.adcT
  adcP : .sMeasP ∉ stages → c.adcP = b.adcP
  polls : (∀ st ∈ stages, st.quantity = none) → c.pollCnt = b.pollCnt ∧ c.pollExhausted = b.pollExhausted
  fine : .sCompT ∉ stages → c.tFine = b.tFine ∧ c.tOut = b.tOut ∧ c.fineValid = b.fineValid
  pOut : .sCompP ∉ stages → c.pOut = b.pOut

theorem StagesFrame.refl {stages : List Stage} {b : Block} : StagesFrame stages b b := by
  constructor <;> simp

theorem StagesFrame.trans {stages : List Stage} {b c d : Block} (first : StagesFrame stages b c)
    (second : StagesFrame stages c d) : StagesFrame stages b d where
  busAddr := second.busAddr.trans first.busAddr
  timeoutEn := second.timeoutEn.trans first.timeoutEn
  idMatch other := (second.idMatch other).trans (first.idMatch other)
  store other := ⟨(second.store other).1.trans (first.store other).1, (second.store other).2.trans (first.store other).2⟩
  adcT other := (second.adcT other).trans (first.adcT other)
  adcP other := (second.adcP other).trans (first.adcP other)
  polls other := ⟨(second.polls other).1.trans (first.polls other).1, (second.polls other).2.trans (first.polls other).2⟩
  fine other := by
    obtain ⟨tFine, tOut, valid⟩ := second.fine other
    rw [tFine, tOut, valid]
    exact first.fine other
  pOut other := (second.pOut other).trans (first.pOut other)

/-- The raw value of the quantity that the stage does not measure is left alone. -/
theorem effectOf_adc {b b' : Block} {a : Answer} {st : Stage} (at_stage : InStage b st) (effect : effectOf a b = some b') :
    (st ≠ .sMeasT → b'.adcT = b.adcT) ∧ (st ≠ .sMeasP → b'.adcP = b.adcP) := by
  obtain ⟨-, -, -, adc, -⟩ := effectOf_frame effect
  by_cases position : b.upc = .uData
  · cases microStep_of_effectOf effect with
    | @measured q _ _ _ _ quantity =>
      have same : st.quantity = some q := by simpa [currentQuantity, at_stage.1] using quantity
      cases q <;> cases st <;> simp_all [Stage.quantity, setAdc]
    | _ => simp_all
  · exact ⟨fun _ => (adc position).1, fun _ => (adc position).2⟩

theorem effectOf_stagesFrame {b b' : Block} {a : Answer} {st : Stage} {stages : List Stage} (at_stage : InStage b st)
    (mem : st ∈ stages) (effect : effectOf a b = some b') : StagesFrame stages b b' := by
  obtain ⟨⟨busAddr, timeoutEn, -⟩, idMatch, store, -, fine, pOut, pollCnt, pollExhausted⟩ := effectOf_frame effect
  obtain ⟨adcT, adcP⟩ := effectOf_adc at_stage effect
  have not_measuring (quiet : ∀ st ∈ stages, st.quantity = none) {u : Upc} (measures : u ∈ measurementPositions) : b.upc ≠ u :=
    fun position => by simpa [quiet st mem] using at_stage.measures position measures
  exact
    { busAddr, timeoutEn
      idMatch := fun other => idMatch fun position =>
        other (uRdid_mem_microSteps.mp (at_stage.mem position (by decide)) ▸ mem)
      store := fun other => store fun position =>
        other (uRdcal_mem_microSteps.mp (at_stage.mem position (by decide)) ▸ mem)
      adcT := fun other => adcT fun same => other (same ▸ mem)
      adcP := fun other => adcP fun same => other (same ▸ mem)
      polls := fun quiet => ⟨pollCnt (not_measuring quiet (by decide)) (not_measuring quiet (by decide)),
        pollExhausted (not_measuring quiet (by decide))⟩
      fine := fun other => fine fun position =>
        other (uCompT_mem_microSteps.mp (at_stage.mem position (by decide)) ▸ mem)
      pOut := fun other => pOut fun position =>
        other (uCompP_mem_microSteps.mp (at_stage.mem position (by decide)) ▸ mem) }

/-- However far a command has run, it has left alone what none of its stages writes. -/
theorem exec_stagesFrame {i : Instr} {s t : State} (idle : s.blk.busy = false) (ran : exec i s = .next t) :
    StagesFrame (stageList (opcode i)) (acceptLegal (encode i) (firstStage i) s.blk) t.blk := by
  obtain ⟨-, -, frame⟩ := exec_follows (Q := StagesFrame (stageList (opcode i)) (acceptLegal (encode i) (firstStage i) s.blk))
    idle ran .refl fun b b' a st _ op at_stage frame effect =>
      frame.trans (effectOf_stagesFrame at_stage (at_stage.mem_stageList op) effect)
  exact frame

/-- Only VERIFY clears ID_MATCH at acceptance (R54). -/
theorem acceptLegal_idMatch_of_ne {i : Instr} (other : i ≠ .verify) (b : Block) :
    (acceptLegal (encode i) (firstStage i) b).idMatch = b.idMatch := by
  rw [acceptLegal_idMatch, opcField_encode, if_neg (mt (opcode_eq_one_iff i).mp other)]

/-- Settles O53: the one stage of each command, S_ID or S_CAL, is none of those that write the registers named. -/
theorem frameOfVerifyAndCalib : Obligations.FrameOfVerifyAndCalib := by
  intro s t i idle which ran
  have frame := exec_stagesFrame idle ran
  obtain ⟨inputs, -, replies⟩ := exec_keeps_outside idle ran
  have stages : stageList (opcode i) = [.sId] ∧ i ≠ .calib ∨ stageList (opcode i) = [.sCal] ∧ i ≠ .verify := by
    rcases which with rfl | rfl <;> simp [opcode, stageList]
  have others : .sMeasT ∉ stageList (opcode i) ∧ .sMeasP ∉ stageList (opcode i) ∧ .sCompT ∉ stageList (opcode i) ∧
      .sCompP ∉ stageList (opcode i) ∧ ∀ st ∈ stageList (opcode i), st.quantity = none := by
    rcases stages with ⟨stages, -⟩ | ⟨stages, -⟩ <;> rw [stages] <;> decide
  obtain ⟨noMeasT, noMeasP, noCompT, noCompP, quiet⟩ := others
  obtain ⟨tFine, tOut, fineValid⟩ := frame.fine noCompT
  obtain ⟨pollCnt, pollExhausted⟩ := frame.polls quiet
  refine ⟨frame.adcT noMeasT, frame.adcP noMeasP, tFine, tOut, frame.pOut noCompP, frame.busAddr, frame.timeoutEn, fineValid,
    pollCnt, pollExhausted, inputs, replies, ?_, ?_⟩
  · rintro rfl
    exact frame.store (by decide)
  · rintro rfl
    exact (frame.idMatch (by decide)).trans (acceptLegal_idMatch_of_ne (by decide) s.blk)

/-- Settles O56: no stage of RDPA is S_ID, and its acceptance leaves ID_MATCH. -/
theorem frameOfRdpa : Obligations.FrameOfRdpa := by
  intro acc s t idle ran
  have frame := exec_stagesFrame idle ran
  obtain ⟨inputs, -, replies⟩ := exec_keeps_outside idle ran
  have no_identity : .sId ∉ stageList (opcode (.rdpa acc)) := by simp [opcode, stageList]
  exact ⟨(frame.idMatch no_identity).trans (acceptLegal_idMatch_of_ne (by simp) s.blk), frame.busAddr, frame.timeoutEn, inputs,
    replies⟩

/-- A raw value has 20 bits (R97). -/
theorem decodeRaw_setWidth_le (b0 b1 b2 : Byte) : ((decodeRaw b0 b1 b2).setWidth 32).toNat ≤ 0xFFFFF := by
  have := (decodeRaw b0 b1 b2).isLt
  rw [BitVec.toNat_setWidth]
  omega

/-- A micro-step leaves each raw value as it is, or writes one of 20 bits. -/
theorem effectOf_adc_range {b b' : Block} {a : Answer} (effect : effectOf a b = some b') :
    (b'.adcT = b.adcT ∨ b'.adcT.toNat ≤ 0xFFFFF) ∧ (b'.adcP = b.adcP ∨ b'.adcP.toNat ≤ 0xFFFFF) := by
  obtain ⟨-, -, -, adc, -⟩ := effectOf_frame effect
  by_cases position : b.upc = .uData
  · cases microStep_of_effectOf effect with
    | @measured q b0 b1 b2 =>
      cases q with
      | temperature => exact ⟨.inr (decodeRaw_setWidth_le b0 b1 b2), .inl rfl⟩
      | pressure => exact ⟨.inl rfl, .inr (decodeRaw_setWidth_le b0 b1 b2)⟩
    | _ => simp_all
  · exact ⟨.inl (adc position).1, .inl (adc position).2⟩

theorem exec_adc_range {i : Instr} {s t : State} (idle : s.blk.busy = false) (ran : exec i s = .next t) :
    (t.blk.adcT = s.blk.adcT ∨ t.blk.adcT.toNat ≤ 0xFFFFF) ∧ (t.blk.adcP = s.blk.adcP ∨ t.blk.adcP.toNat ≤ 0xFFFFF) := by
  refine exec_invariant (P := fun b => (b.adcT = s.blk.adcT ∨ b.adcT.toNat ≤ 0xFFFFF) ∧
    (b.adcP = s.blk.adcP ∨ b.adcP.toNat ≤ 0xFFFFF)) idle ran ⟨.inl rfl, .inl rfl⟩ fun b b' a holds _ effect => ?_
  obtain ⟨adcT, adcP⟩ := effectOf_adc_range effect
  exact ⟨adcT.elim (fun same => same ▸ holds.1) .inr, adcP.elim (fun same => same ▸ holds.2) .inr⟩

/-- Settles O54: the one stage measures the command's quantity, and the raw value is the one register of the list it can write. -/
theorem frameOfRdutAndRdup : Obligations.FrameOfRdutAndRdup := by
  intro q acc s t idle ran
  have frame := exec_stagesFrame idle ran
  obtain ⟨inputs, -, replies⟩ := exec_keeps_outside idle ran
  obtain ⟨rangeT, rangeP⟩ := exec_adc_range idle ran
  have others : .sId ∉ stageList (opcode (measureCommand q acc)) ∧ .sCal ∉ stageList (opcode (measureCommand q acc)) ∧
      .sCompT ∉ stageList (opcode (measureCommand q acc)) ∧ .sCompP ∉ stageList (opcode (measureCommand q acc)) := by
    cases q <;> simp [measureCommand, opcode, stageList]
  obtain ⟨noId, noCal, noCompT, noCompP⟩ := others
  have not_verify : measureCommand q acc ≠ .verify := by cases q <;> simp [measureCommand]
  obtain ⟨tFine, tOut, fineValid⟩ := frame.fine noCompT
  obtain ⟨cal, calLoaded⟩ := frame.store noCal
  refine ⟨tFine, tOut, frame.pOut noCompP, cal, frame.busAddr, frame.timeoutEn, calLoaded, fineValid,
    (frame.idMatch noId).trans (acceptLegal_idMatch_of_ne not_verify s.blk), inputs, replies, ?_, ?_⟩
  · rintro rfl
    exact ⟨frame.adcP (by simp [measureCommand, opcode, stageList]), rangeT⟩
  · rintro rfl
    exact ⟨frame.adcT (by simp [measureCommand, opcode, stageList]), rangeP⟩

/-- Settles O55: with no room the command has only been accepted, with some it has taken its one micro-step, which has no event. -/
theorem frameOfComptAndCompp : Obligations.FrameOfComptAndCompp := by
  intro s t i idle which ran
  rcases Nat.eq_zero_or_pos s.room with no_room | has_room
  · rw [exec_idle idle, no_room, runEngine_zero] at ran
    cases ran
    rcases which with rfl | rfl <;> simp [opcField_encode, opcode]
  · rcases which with rfl | rfl
    · rw [exec_compt idle has_room] at ran
      cases ran
      simp [uCompT, opcField_encode, opcode]
    · rw [exec_compp idle has_room] at ran
      cases ran
      simp [uCompP, opcField_encode, opcode]

/-! ## Codes -/

/-- The codes of a command's stages are in its row of R121. -/
theorem mem_endCodes_of_stage {i : Instr} {st : Stage} (timeoutEn : Bool) (mem : st ∈ stageList (opcode i)) :
    (st.usesBus = true → .transportOpenError ∈ endCodes timeoutEn i ∧ .transportIOError ∈ endCodes timeoutEn i) ∧
      (st = .sId → .identityMismatch ∈ endCodes timeoutEn i) ∧
      (st.quantity.isSome = true → timeoutEn = true → .timeoutError ∈ endCodes timeoutEn i) ∧
      (st = .sCompP → .invalidCalibration ∈ endCodes timeoutEn i) := by
  revert mem
  cases i <;> cases st <;> simp [opcode, stageList, endCodes, Stage.usesBus, Stage.quantity]

theorem none_mem_endCodes (timeoutEn : Bool) (i : Instr) : .none ∈ endCodes timeoutEn i := by
  cases i <;> simp [endCodes]

theorem MicroStep.code {b b' : Block} {a : Answer} {st : Stage} {i : Instr} (step : MicroStep b a b') (at_stage : InStage b st)
    (mem : st ∈ stageList (opcode i)) (code : b.errCode ∈ endCodes b.timeoutEn i) : b'.errCode ∈ endCodes b.timeoutEn i := by
  obtain ⟨transport, mismatch, timeout, invalid⟩ := mem_endCodes_of_stage b.timeoutEn mem
  cases step with
  | opened | matched | calibrated | triggered | polled | retries | givesUp | aborted => exact code
  | openFails position => exact (transport (uOpen_mem_microSteps.mp (at_stage.mem position (by decide)))).1
  | mismatched position => exact mismatch (uRdid_mem_microSteps.mp (at_stage.mem position (by decide)))
  | timesOut position enabled => exact timeout (at_stage.measures position (by decide)) enabled
  | measured => simpa using code
  | ioFails io =>
    have going_on : b.upc ≠ .uAbort := by intro abort; rw [abort] at io; revert io; decide
    exact (transport (usesBus_of_ioPosition io (at_stage.mem rfl going_on))).2
  | closed => simpa using code
  | compensatedT => simpa [uCompT] using code
  | compensatedP position =>
    have invalid := invalid (uCompP_mem_microSteps.mp (at_stage.mem position (by decide)))
    rw [uCompP, stageDone_errCode]
    dsimp only
    split
    · exact invalid
    · exact code

/-- Settles O58: every micro-step keeps the code in the command's row, and PHASE is that of an ended block. -/
theorem commandsEndWithTheirCodes : Obligations.CommandsEndWithTheirCodes := by
  intro i s t idle ran finished
  obtain ⟨run | ended, -, timeoutEn, code⟩ := exec_follows
    (Q := fun b => b.timeoutEn = s.blk.timeoutEn ∧ b.errCode ∈ endCodes s.blk.timeoutEn i) idle ran
    ⟨rfl, none_mem_endCodes _ i⟩ fun b b' a st _ op at_stage holds effect => by
      obtain ⟨timeoutEn, code⟩ := holds
      obtain ⟨⟨-, same, -⟩, -⟩ := effectOf_frame effect
      rw [← timeoutEn] at code ⊢
      exact ⟨same, (microStep_of_effectOf effect).code at_stage (at_stage.mem_stageList op) code⟩
  · exact absurd finished (by simp [run.busy])
  · exact ⟨code, ended.phase⟩

end Sys2Proof.Machine
end

section
/-! Ends of commands (spec 40_sequencer.md R80; 44_orchestration.md R116; 41_identity_calibration.md R81): what a failed RDPA keeps,
which answers a match of VERIFY comes from, and the bound within which every command ends. -/

namespace Sys2Proof.Machine

/-! ## The number of a stage -/

theorem stageDone_stage_of_next {b : Block} {st : Stage} (following : (stageList b.op)[b.stage.toNat + 1]? = some st) :
    (stageDone b).stage.toNat = b.stage.toNat + 1 := by
  rw [stageDone_next following]
  exact stage_succ_toNat following

theorem stage_le_stageDone (b : Block) : b.stage.toNat ≤ (stageDone b).stage.toNat := by
  cases following : (stageList b.op)[b.stage.toNat + 1]? with
  | some st => rw [stageDone_stage_of_next following]; omega
  | none => rw [stageDone_last following]; rfl

/-- STAGE only grows while a command runs (R74). -/
theorem MicroStep.stage_le {b b' : Block} {a : Answer} (step : MicroStep b a b') : b.stage.toNat ≤ b'.stage.toNat := by
  cases step with
  | closed => exact stage_le_stageDone { b with handleOpen := false }
  | compensatedT =>
    exact stage_le_stageDone
      { b with tFine := (compT (tempOperands b)).1, tOut := (compT (tempOperands b)).2, fineValid := true }
  | compensatedP =>
    exact stage_le_stageDone
      { b with
        pOut := (compP (pressOperands b)).1
        errCode := if (compP (pressOperands b)).2 then .invalidCalibration else b.errCode }
  | @measured q => cases q <;> exact le_rfl
  | opened | openFails | matched | mismatched | calibrated | triggered | polled | retries | timesOut | givesUp | ioFails
  | aborted => exact le_rfl

/-! ## A failed RDPA -/

/-- The number of each stage of RDPA (R71). -/
def rdpaNumber : Stage → Nat
  | .sMeasT => 0
  | .sMeasP => 1
  | .sCal => 2
  | .sCompT => 3
  | .sCompP => 4
  | .sId => 5

theorem rdpaNumber_of_stage {b : Block} {st : Stage} (op : b.op = 5) (stage : currentStage b = some st) :
    b.stage.toNat = rdpaNumber st := by
  have numbers : ∀ n : BitVec 3, ∀ st ∈ (stageList 5)[n.toNat]?, n.toNat = rdpaNumber st := by decide
  exact numbers b.stage st (currentStage_of op rfl ▸ stage)

/-- A bus stage of RDPA is one of the first three, and another stage follows it. -/
theorem rdpa_bus_stage {st : Stage} (mem : st ∈ stageList 5) (bus : st.usesBus = true) :
    rdpaNumber st ≤ 2 ∧ ∃ next, (stageList 5)[rdpaNumber st + 1]? = some next := by
  cases st with
  | sMeasT | sMeasP | sCal => exact ⟨by decide, _, rfl⟩
  | sCompT | sCompP => cases bus
  | sId => exact absurd mem (by decide)

/-- Stage number `k` of the command has not written its result: a stage that has stands at U_CLOSE or has been left. -/
def Before (k : Nat) (b : Block) : Prop := b.stage.toNat < k ∨ b.stage.toNat = k ∧ b.upc ≠ .uClose

theorem rdpa_close_advances {b b' : Block} {a : Answer} {st : Stage} (op : b.op = 5) (at_stage : InStage b st)
    (position : b.upc = .uClose) (step : MicroStep b a b') : b'.stage.toNat = b.stage.toNat + 1 := by
  have bus := uClose_mem_microSteps.mp (at_stage.mem position (by decide))
  obtain ⟨-, next, following⟩ := rdpa_bus_stage (at_stage.mem_stageList op) bus
  rw [← rdpaNumber_of_stage op at_stage.1, ← op] at following
  cases step with
  | closed => exact stageDone_stage_of_next (b := { b with handleOpen := false }) following
  | _ => simp_all [ioPositions]

theorem before_of_microStep {b b' : Block} {a : Answer} {st : Stage} {k : Nat} (op : b.op = 5) (at_stage : InStage b st)
    (step : MicroStep b a b') (before : Before k b') : Before k b := by
  have grows := step.stage_le
  by_cases position : b.upc = .uClose
  · have advance := rdpa_close_advances op at_stage position step
    rcases before with less | ⟨same, -⟩ <;> exact .inl (by omega)
  · rcases before with less | ⟨same, -⟩
    · exact .inl (by omega)
    · rcases grows.lt_or_eq with less | equal
      · exact .inl (by omega)
      · exact .inr ⟨by omega, position⟩

/-- A stage whose result is not written after a micro-step has not written it in that micro-step. -/
theorem results_of_before {b b' : Block} {a : Answer} (effect : effectOf a b = some b') (before : Before b.stage.toNat b') :
    b'.adcT = b.adcT ∧ b'.adcP = b.adcP ∧ b'.cal = b.cal ∧ b'.calLoaded = b.calLoaded := by
  obtain ⟨-, -, store, adc, -⟩ := effectOf_frame effect
  have closing (stage : b'.stage = b.stage) (upc : b'.upc = .uClose) : False := by
    rcases before with less | ⟨-, open_stage⟩
    · rw [stage] at less; exact lt_irrefl _ less
    · exact open_stage upc
  by_cases data : b.upc = .uData
  · cases microStep_of_effectOf effect with
    | @measured q => cases q <;> exact (closing rfl rfl).elim
    | _ => simp_all
  · by_cases calibration : b.upc = .uRdcal
    · cases microStep_of_effectOf effect with
      | calibrated => exact (closing rfl rfl).elim
      | _ => simp_all
    · exact ⟨(adc data).1, (adc data).2, store calibration⟩

/-- What a running RDPA that began as `b0` has not yet written (R116). -/
structure KeepsOlder (b0 b : Block) : Prop where
  adcT : Before 0 b → b.adcT = b0.adcT
  adcP : Before 1 b → b.adcP = b0.adcP
  store : Before 2 b → b.cal = b0.cal ∧ b.calLoaded = b0.calLoaded
  compensation : b.stage.toNat ≤ 2 →
    b.fineValid = b0.fineValid ∧ b.tFine = b0.tFine ∧ b.tOut = b0.tOut ∧ b.pOut = b0.pOut

theorem KeepsOlder.keeps {b0 b b' : Block} {a : Answer} {st : Stage} (op : b.op = 5) (at_stage : InStage b st)
    (older : KeepsOlder b0 b) (effect : effectOf a b = some b') : KeepsOlder b0 b' := by
  have step := microStep_of_effectOf effect
  have number := rdpaNumber_of_stage op at_stage.1
  have frame := effectOf_stagesFrame (stages := [st]) at_stage (by simp) effect
  constructor
  · intro before
    rw [← older.adcT (before_of_microStep op at_stage step before)]
    by_cases own : st = .sMeasT
    · subst own; exact (results_of_before effect (number ▸ before)).1
    · exact frame.adcT (by simpa using Ne.symm own)
  · intro before
    rw [← older.adcP (before_of_microStep op at_stage step before)]
    by_cases own : st = .sMeasP
    · subst own; exact (results_of_before effect (number ▸ before)).2.1
    · exact frame.adcP (by simpa using Ne.symm own)
  · intro before
    obtain ⟨cal, loaded⟩ := older.store (before_of_microStep op at_stage step before)
    rw [← cal, ← loaded]
    by_cases own : st = .sCal
    · subst own; exact (results_of_before effect (number ▸ before)).2.2
    · exact frame.store (by simpa using Ne.symm own)
  · intro early
    have early' : b.stage.toNat ≤ 2 := step.stage_le.trans early
    rw [number] at early'
    have not_compT : .sCompT ∉ [st] := by rw [List.mem_singleton]; rintro rfl; revert early'; decide
    have not_compP : .sCompP ∉ [st] := by rw [List.mem_singleton]; rintro rfl; revert early'; decide
    obtain ⟨tFine, tOut, valid⟩ := frame.fine not_compT
    rw [tFine, tOut, valid, frame.pOut not_compP]
    exact older.compensation (number ▸ early')

/-- Settles O52: a failed RDPA ended in one of its bus stages, before that stage had written its result. -/
theorem failedRdpaKeepsOlderResults : Obligations.FailedRdpaKeepsOlderResults := by
  intro acc s t idle ran finished failure
  obtain ⟨run | ended, op, older⟩ := exec_follows (Q := KeepsOlder s.blk) idle ran
    (by constructor <;> intro _ <;> simp) fun b b' a st _ op at_stage older effect => older.keeps op at_stage effect
  · exact absurd finished (by simp [run.busy])
  · obtain ⟨st, stage, bus⟩ := ended.failed_in failure
    have early : t.blk.stage.toNat ≤ 2 := by
      rw [rdpaNumber_of_stage op stage]
      exact (rdpa_bus_stage (List.mem_of_getElem? (currentStage_of op rfl ▸ stage)) bus).1
    have before {k : Nat} (reached : t.blk.stage.toNat ≤ k) : Before k t.blk :=
      reached.lt_or_eq.imp_right fun same => ⟨same, by simp [ended.upc]⟩
    obtain ⟨cal, calLoaded⟩ := older.store (before early)
    obtain ⟨fineValid, tFine, tOut, pOut⟩ := older.compensation early
    exact ⟨cal, calLoaded, fineValid, tFine, tOut, pOut, fun first => older.adcT (before (by simp [first])),
      fun reached => older.adcP (before reached)⟩

/-! ## The answers a command takes -/

/-- The micro-steps whose event has an answer (R32). -/
def answeredPositions : List Upc := [.uOpen, .uRdid, .uRdcal, .uTrig, .uPoll, .uData]

theorem answered_iff {b : Block} {e : Event} (event : eventOf b = some e) :
    e.answered = decide (b.upc ∈ answeredPositions) := by
  unfold eventOf at event
  split at event
  case h_2 position | h_5 position | h_8 position => split at event <;> cases event; rw [position]; rfl
  all_goals next position => cases event; try (rw [position]; rfl)

/-- What an engine step does to the block and to the answers: nothing, a micro-step without answer, or one that takes the next. -/
theorem engineStep_takes {u u' : State} (stepped : engineStep u = .next u') :
    u' = u ∨ ∃ h, u.blk.busy = true ∧ effectOf h u.blk = some u'.blk ∧
      (u.blk.upc ∉ answeredPositions ∧ u'.answers = u.answers ∨
        u.blk.upc ∈ answeredPositions ∧ ∃ e a, eventOf u.blk = some e ∧ h = e.heard a ∧ u.answers = a :: u'.answers) := by
  rcases engineStep_cases stepped with
    same | ⟨b, busy, ⟨event, effect, rfl⟩ | ⟨e, event, answered, effect, rfl⟩ |
      ⟨e, a, rest, event, answered, answers, effect, rfl⟩⟩
  · exact .inl same
  · have quiet : u.blk.upc ∉ answeredPositions := by
      rcases compute_of_no_event event effect with position | position <;> rw [position] <;> decide
    exact .inr ⟨_, busy, effect, .inl ⟨quiet, rfl⟩⟩
  · rw [answered_iff event, decide_eq_false_iff_not] at answered
    exact .inr ⟨_, busy, effect, .inl ⟨answered, rfl⟩⟩
  · rw [answered_iff event, decide_eq_true_eq] at answered
    exact .inr ⟨_, busy, effect, .inr ⟨answered, e, a, event, rfl, answers⟩⟩

/-- An Ok heard is an Ok given. -/
theorem ok_of_heard {e : Event} {a : Answer} {x : List Byte} (heard : e.heard a = .ok x) : ∃ y, a = .ok y := by
  cases a with
  | ok y => exact ⟨y, rfl⟩
  | err => cases e <;> simp [Event.heard] at heard

/-- The bytes of a read are heard as they are given. -/
theorem ok_of_heard_read {r : Byte} {n : Nat} {a : Answer} {x : List Byte} (heard : Event.heard (.busRead r n) a = .ok x) :
    a = .ok x := by
  cases a with
  | ok y =>
    simp only [Event.heard] at heard
    split at heard <;> cases heard
    rfl
  | err => cases heard

/-! ## A match of VERIFY -/

/-- A VERIFY that began with the answers `given` and has come to state `u`: a match comes from the signature. -/
structure SeeksMatch (given : List Answer) (u : State) : Prop where
  opening : u.blk.upc = .uOpen → u.answers = given
  reading : u.blk.upc = .uRdid → ∃ x, given = .ok x :: u.answers
  found : u.blk.idMatch = true → ∃ x rest, given = .ok x :: .ok [signature] :: rest

/-- VERIFY has one stage, so the identity stage is followed by the end. -/
theorem verify_stageDone {b : Block} (op : b.op = 1) (stage : currentStage b = some .sId) : stageDone b = finishOk b := by
  have last : ∀ n : BitVec 3, (stageList 1)[n.toNat]? = some .sId → (stageList 1)[n.toNat + 1]? = none := by decide
  exact stageDone_last (op ▸ last b.stage (currentStage_of op rfl ▸ stage))

/-- A micro-step of VERIFY: the handle is obtained, the signature is read, or nothing comes nearer to a match. -/
theorem verify_microStep {b b' : Block} {a : Answer} (op : b.op = 1) (at_stage : InStage b .sId) (step : MicroStep b a b') :
    (b.upc = .uOpen ∧ (∃ x, a = .ok x) ∧ b'.upc = .uRdid ∧ b'.idMatch = b.idMatch) ∨
    (b.upc = .uRdid ∧ a = .ok [signature] ∧ b'.upc = .uClose) ∨
    ((b'.upc = .uClose ∨ b'.upc = .uAbort ∨ b'.upc = .uNone) ∧ (b'.idMatch = true → b.idMatch = true)) := by
  have off {u : Upc} (position : b.upc = u) (going_on : u ≠ .uAbort) (other : u ∉ Stage.sId.microSteps) : False :=
    other (at_stage.mem position going_on)
  cases step with
  | @opened st next x position stage after =>
    obtain rfl := at_stage.unique stage
    cases after
    exact .inl ⟨position, ⟨x, rfl⟩, rfl, rfl⟩
  | matched position => exact .inr (.inl ⟨position, rfl, rfl⟩)
  | closed =>
    rw [verify_stageDone (b := { b with handleOpen := false }) op at_stage.1]
    exact .inr (.inr ⟨.inr (.inr rfl), id⟩)
  | openFails | mismatched | ioFails | aborted => exact .inr (.inr ⟨by simp, by simp⟩)
  | calibrated position | triggered position | polled position | retries position | timesOut position | givesUp position
  | measured position | compensatedT position | compensatedP position => exact (off position (by decide) (by decide)).elim

theorem SeeksMatch.keeps {given : List Answer} {u u' : State} (seeks : SeeksMatch given u) (run : Running u.blk)
    (op : u.blk.op = 1) (stepped : engineStep u = .next u') : SeeksMatch given u' := by
  rcases engineStep_takes stepped with rfl | ⟨h, busy, effect, taken⟩
  · exact seeks
  obtain ⟨st, at_stage⟩ := run.at_stage
  obtain rfl : st = .sId := by simpa [stageList] using at_stage.mem_stageList (b := u.blk) op
  have takes (position : u.blk.upc ∈ answeredPositions) :
      ∃ e a, eventOf u.blk = some e ∧ h = e.heard a ∧ u.answers = a :: u'.answers :=
    (taken.resolve_left fun quiet => quiet.1 position).2
  rcases verify_microStep op at_stage (microStep_of_effectOf effect) with
    ⟨position, ⟨x, ok⟩, upc, idMatch⟩ | ⟨position, ok, upc⟩ | ⟨upc, idMatch⟩
  · obtain ⟨e, a, -, heard, answers⟩ := takes (by rw [position]; decide)
    obtain ⟨y, rfl⟩ := ok_of_heard (heard.symm.trans ok)
    exact
      { opening := by simp [upc]
        reading := fun _ => ⟨y, by rw [← answers, seeks.opening position]⟩
        found := fun is_match => seeks.found (idMatch ▸ is_match) }
  · obtain ⟨e, a, event, heard, answers⟩ := takes (by rw [position]; decide)
    obtain rfl : Event.busRead regId 1 = e := by simpa [eventOf, position] using event
    obtain rfl := ok_of_heard_read (heard.symm.trans ok)
    obtain ⟨x, given_eq⟩ := seeks.reading position
    exact
      { opening := by simp [upc]
        reading := by simp [upc]
        found := fun _ => ⟨x, u'.answers, by rw [given_eq, answers]⟩ }
  · exact
      { opening := by rcases upc with upc | upc | upc <;> simp [upc]
        reading := by rcases upc with upc | upc | upc <;> simp [upc]
        found := fun is_match => seeks.found (idMatch is_match) }

/-- Settles O35: acceptance clears ID_MATCH, and every engine step keeps `SeeksMatch`. -/
theorem verifyMatchesOnlyTheSignature : Obligations.VerifyMatchesOnlyTheSignature := by
  intro s t idle ran is_match
  rw [exec_idle idle] at ran
  refine (runEngine_invariant (P := fun u => ((Running u.blk ∨ Ended u.blk) ∧ u.blk.op = 1) ∧ SeeksMatch s.answers u)
    (fun u u' holds stepped => ?_) ⟨⟨.inl (running_accepted .verify s.blk), rfl⟩, ?_⟩ ran).2.found is_match
  · obtain ⟨⟨run | ended, op⟩, seeks⟩ := holds
    · refine ⟨?_, seeks.keeps run op stepped⟩
      rcases engineStep_takes stepped with rfl | ⟨h, busy, effect, -⟩
      · exact ⟨.inl run, op⟩
      · obtain ⟨⟨-, -, same_op, -⟩, -⟩ := effectOf_frame effect
        exact ⟨run.keeps (microStep_of_effectOf effect), same_op.trans op⟩
    · rw [engineStep_idle ended.idle] at stepped
      cases stepped
      exact ⟨⟨.inr ended, op⟩, seeks⟩
  · exact
      { opening := fun _ => rfl
        reading := nofun
        found := fun is_match => absurd is_match (by simp [opcField_encode, opcode]) }

/-! ## The bound -/

/-- The micro-steps left in stage `st` at a control position, `polls` status reads being done (R80). -/
def stepsLeft (st : Stage) (polls : Nat) : Upc → Nat
  | .uNone => 0
  | .uOpen => if st.quantity.isSome then 64 else 3
  | .uRdid | .uRdcal | .uData => 2
  | .uTrig => 63
  | .uPoll => 2 * (30 - polls) + 2
  | .uDelay => 2 * (30 - polls) + 3
  | .uClose | .uAbort | .uCompT | .uCompP => 1

/-- The answers that stage `st` can still take (R99). -/
def answersLeft (st : Stage) (polls : Nat) : Upc → Nat
  | .uNone | .uClose | .uAbort | .uCompT | .uCompP => 0
  | .uOpen => if st.quantity.isSome then 33 else 2
  | .uRdid | .uRdcal | .uData => 1
  | .uTrig => 32
  | .uPoll | .uDelay => (30 - polls) + 1

/-- What is left of a command by such a measure: of its current stage, and of the stages to come, from their entry. -/
def leftOf (measure : Stage → Nat → Upc → Nat) (b : Block) : Nat :=
  ((currentStage b).elim 0 fun st => measure st b.pollCnt.toNat b.upc) +
    (((stageList b.op).drop (b.stage.toNat + 1)).map fun st => measure st 0 (entryUpc st)).sum

theorem leftOf_accepted (i : Instr) (b : Block) :
    leftOf stepsLeft (acceptLegal (encode i) (firstStage i) b) = stepBound i ∧
      leftOf answersLeft (acceptLegal (encode i) (firstStage i) b) = answerBound i := by
  obtain ⟨stage, -⟩ := inStage_accepted i b
  simp only [leftOf, stage, acceptLegal_op, acceptLegal_stage, acceptLegal_upc, opcField_encode]
  cases i <;> exact ⟨rfl, rfl⟩

/-- Within a stage only the stage's own share changes. -/
theorem leftOf_sameControl {measure : Stage → Nat → Upc → Nat} {b c : Block} {st : Stage} (same : SameControl b c)
    (stage : currentStage b = some st) :
    leftOf measure c + measure st b.pollCnt.toNat b.upc = leftOf measure b + measure st c.pollCnt.toNat c.upc := by
  simp only [leftOf, same.currentStage, stage, same.op, same.stage, Option.elim_some]
  omega

/-- At the end of a stage what is left is that of the stages to come, or the command ends. -/
theorem leftOf_stageDone {measure : Stage → Nat → Upc → Nat} {b c : Block} {st : Stage} (same : SameControl b c)
    (stage : currentStage b = some st) (entry : ∀ st n, measure st n (entryUpc st) = measure st 0 (entryUpc st)) :
    (stageDone c).busy = false ∨
      leftOf measure (stageDone c) + measure st b.pollCnt.toNat b.upc = leftOf measure b := by
  cases following : (stageList c.op)[c.stage.toNat + 1]? with
  | none => exact .inl (by rw [stageDone_last following]; rfl)
  | some next =>
    right
    obtain ⟨in_list, get⟩ := List.getElem?_eq_some_iff.mp following
    have current : currentStage (stageDone c) = some next := by
      rw [stageDone_next following]
      exact currentStage_advance following
    have upc : (stageDone c).upc = entryUpc next := by rw [stageDone_next following]; rfl
    have number : (stageDone c).stage.toNat = c.stage.toNat + 1 := stageDone_stage_of_next following
    simp only [leftOf, current, upc, number, entry, stageDone_op, stage, Option.elim_some]
    rw [← same.op, ← same.stage, List.drop_eq_getElem_cons in_list, get]
    simp only [List.map_cons, List.sum_cons]
    omega

theorem stepsLeft_entry (st : Stage) (n : Nat) : stepsLeft st n (entryUpc st) = stepsLeft st 0 (entryUpc st) := by
  cases st <;> rfl

theorem answersLeft_entry (st : Stage) (n : Nat) : answersLeft st n (entryUpc st) = answersLeft st 0 (entryUpc st) := by
  cases st <;> rfl

/-- The micro-step from `b` to `c` ends the command, or takes one of the micro-steps left, and one of the answers left if it takes
one. -/
def Spends (b c : Block) : Prop :=
  c.busy = false ∨
    (leftOf stepsLeft c + 1 ≤ leftOf stepsLeft b ∧
      leftOf answersLeft c + (if b.upc ∈ answeredPositions then 1 else 0) ≤ leftOf answersLeft b)

section
variable {b c : Block} {st : Stage} {u : Upc}

theorem spends_within (stage : currentStage b = some st) (position : b.upc = u) (same : SameControl b c)
    (steps : stepsLeft st c.pollCnt.toNat c.upc + 1 ≤ stepsLeft st b.pollCnt.toNat u)
    (answers : answersLeft st c.pollCnt.toNat c.upc + (if u ∈ answeredPositions then 1 else 0) ≤
      answersLeft st b.pollCnt.toNat u) : Spends b c := by
  subst position
  have left_steps := leftOf_sameControl (measure := stepsLeft) same stage
  have left_answers := leftOf_sameControl (measure := answersLeft) same stage
  exact .inr ⟨by omega, by omega⟩

theorem spends_stageDone (stage : currentStage b = some st) (position : b.upc = u)
    (last : u = .uClose ∨ u = .uCompT ∨ u = .uCompP) (same : SameControl b c) : Spends b (stageDone c) := by
  subst position
  have costs : stepsLeft st b.pollCnt.toNat b.upc = 1 ∧ b.upc ∉ answeredPositions := by
    rcases last with last | last | last <;> rw [last] <;> exact ⟨rfl, by decide⟩
  rcases leftOf_stageDone same stage stepsLeft_entry with idle | steps
  · exact .inl idle
  rcases leftOf_stageDone same stage answersLeft_entry with idle | answers
  · exact .inl idle
  refine .inr ⟨by omega, ?_⟩
  rw [if_neg costs.2]
  omega

end

theorem MicroStep.spends {b b' : Block} {a : Answer} (run : Running b) (step : MicroStep b a b') : Spends b b' := by
  obtain ⟨st, at_stage⟩ := run.at_stage
  have stage := at_stage.1
  cases step with
  | opened position stage' after =>
    obtain rfl := at_stage.unique stage'
    cases st <;> cases after <;> exact spends_within stage position {} le_rfl le_rfl
  | matched position | mismatched position | calibrated position | triggered position =>
    exact spends_within stage position {} le_rfl le_rfl
  | @polled v position =>
    have entry := run.poll_entry position
    have count := run.pollCnt_succ_toNat position
    refine spends_within stage position {} ?_ ?_ <;> dsimp only <;> rw [count] <;> cases measuring v <;>
      simp [stepsLeft, answersLeft, answeredPositions] <;> omega
  | retries position | givesUp position | timesOut position =>
    refine spends_within stage position {} ?_ ?_ <;> simp [stepsLeft, answersLeft, answeredPositions]
  | measured position =>
    exact spends_within stage position (sameControl_setAdc ..) le_rfl le_rfl
  | ioFails io =>
    refine spends_within stage rfl {} ?_ ?_ <;> revert io <;> cases b.upc <;>
      simp [ioPositions, stepsLeft, answersLeft, answeredPositions]
  | closed position | compensatedT position | compensatedP position => exact spends_stageDone stage position (by decide) {}
  | openFails | aborted => exact .inl rfl

/-- What is left of a running command: a micro-step, and an answer if it is to take one. -/
theorem Running.left_pos {b : Block} (run : Running b) :
    1 ≤ leftOf stepsLeft b ∧ (b.upc ∈ answeredPositions → 1 ≤ leftOf answersLeft b) := by
  obtain ⟨st, at_stage⟩ := run.at_stage
  have here : 1 ≤ stepsLeft st b.pollCnt.toNat b.upc ∧
      (b.upc ∈ answeredPositions → 1 ≤ answersLeft st b.pollCnt.toNat b.upc) := by
    cases position : b.upc with
    | uNone => exact absurd position run.upc_ne_uNone
    | uOpen => cases st <;> simp [stepsLeft, answersLeft, Stage.quantity]
    | _ => simp [stepsLeft, answersLeft, answeredPositions]
  simp only [leftOf, at_stage.1, Option.elim_some]
  exact ⟨by omega, fun asks => by have := here.2 asks; omega⟩

/-- A running command whose event, if it asks for an answer, is given one takes a micro-step. -/
theorem Running.progress {s : State} (run : Running s.blk) (given : s.blk.upc ∈ answeredPositions → s.answers ≠ []) :
    ∃ s' h, engineStep s = .next s' ∧ effectOf h s.blk = some s'.blk ∧
      s'.answers.length + (if s.blk.upc ∈ answeredPositions then 1 else 0) = s.answers.length := by
  cases event : eventOf s.blk with
  | none =>
    obtain ⟨b, effect⟩ := run.effectOf_ne_none (.ok [])
    have quiet : s.blk.upc ∉ answeredPositions := by
      rcases compute_of_no_event event effect with position | position <;> rw [position] <;> decide
    exact ⟨_, _, by rw [engineStep_compute run.busy event, commit, effect], effect, by rw [if_neg quiet]; rfl⟩
  | some e =>
    have asks := answered_iff event
    by_cases position : s.blk.upc ∈ answeredPositions
    · obtain ⟨a, rest, answers⟩ := List.exists_cons_of_ne_nil (given position)
      obtain ⟨b, effect⟩ := run.effectOf_ne_none (e.heard a)
      refine ⟨{ s with blk := b, answers := rest, trace := s.trace ++ [⟨e, some (e.heard a)⟩] }, _, ?_, effect, ?_⟩
      · rw [engineStep_answered run.busy event (by simp [asks, position]) answers, commit, effect]
      · simp [position, answers]
    · obtain ⟨b, effect⟩ := run.effectOf_ne_none (.ok [])
      refine ⟨{ s with blk := b, trace := s.trace ++ [⟨e, none⟩] }, _, ?_, effect, ?_⟩
      · rw [engineStep_unanswered run.busy event (by simp [asks, position]), commit, effect]
      · simp [position]

/-- A running command with room and answers for what is left of it ends within the room. -/
theorem Running.ends {n : Nat} {s : State} (run : Running s.blk) (room : leftOf stepsLeft s.blk ≤ n)
    (answered : leftOf answersLeft s.blk ≤ s.answers.length) : ∃ t, runEngine n s = .next t ∧ Ended t.blk := by
  induction n generalizing s with
  | zero => exact absurd room (Nat.not_le.mpr run.left_pos.1)
  | succ n ih =>
    have given (asks : s.blk.upc ∈ answeredPositions) : s.answers ≠ [] :=
      List.ne_nil_of_length_pos ((run.left_pos.2 asks).trans answered)
    obtain ⟨s', h, stepped, effect, length⟩ := run.progress given
    rw [runEngine_succ stepped]
    have step := microStep_of_effectOf effect
    rcases run.keeps step with run' | ended
    · obtain ⟨steps, answers⟩ := (step.spends run).resolve_left (by simp [run'.busy])
      exact ih run' (by omega) (by omega)
    · exact ⟨s', runEngine_idle ended.idle n, ended⟩

/-- Settles O57: what is left of a command just accepted is its bound; and a block that has ended holds no handle. -/
theorem everyCommandEndsWithinItsBound : Obligations.EveryCommandEndsWithinItsBound := by
  intro i s idle no_handle room answered
  obtain ⟨steps, answers⟩ := leftOf_accepted i s.blk
  obtain ⟨t, ran, ended⟩ := Running.ends (n := s.room)
    (s := { s with blk := acceptLegal (encode i) (firstStage i) s.blk, room := 0 }) (running_accepted i s.blk)
    (steps.le.trans room) (answers.le.trans answered)
  rw [← exec_idle idle] at ran
  have held : HandleHeld t.blk := exec_invariant idle ran (handleHeld_of_closed no_handle entryUpc_position.2.1)
    fun _ _ _ held _ effect => held.keeps (microStep_of_effectOf effect)
  exact ⟨t, ran, ended.idle, ended.done, held.closed_at ended.upc (by decide), ended.upc⟩

end Sys2Proof.Machine
end

section
/-! The courses of answers of VERIFY, CALIB, RDUT, RDUP and RDPA (spec 41_identity_calibration.md R81, R83; 42_measurement.md
section 5; 44_orchestration.md R115), each as a symbolic run of the accepted block. -/

namespace Sys2Proof.Machine

/-! ## Acceptance and the open -/

/-- The state in which the command `i` has been accepted and no micro-step taken. -/
def accepted (i : Instr) (s : State) : State := { s with blk := acceptLegal (encode i) (firstStage i) s.blk, room := 0 }

/-- The same after a `U_OPEN` that was answered Ok, at the micro-step `next`. -/
def opened (i : Instr) (s : State) (next : Upc) (rest : List Answer) : State :=
  { accepted i s with
    blk := { (accepted i s).blk with handleOpen := true, upc := next }
    answers := rest
    trace := s.trace ++ [⟨.busOpen s.blk.busAddr, some (.ok [])⟩] }

section
variable {i : Instr} {s t : State} {next : Upc} {x : List Byte} {rest : List Answer} {n : Nat}

/-- A run of `n` micro-steps that ends a command is the command's meaning for any room from `n` on. -/
theorem exec_of_run (idle : s.blk.busy = false) (room : n ≤ s.room) (ran : runEngine n (accepted i s) = .next t)
    (ends : t.blk.busy = false) : exec i s = .next t := by
  obtain ⟨m, room_eq⟩ := Nat.exists_eq_add_of_le room
  rw [exec_idle idle, room_eq]
  exact (runEngine_add ran).trans (runEngine_idle ends m)

/-- A bus command begins at U_OPEN (R72). -/
theorem accepted_at_open (after : afterOpen (firstStage i) = some next) :
    (accepted i s).blk.upc = .uOpen ∧ (currentStage (accepted i s).blk).bind afterOpen = some next := by
  obtain ⟨stage, -⟩ := inStage_accepted i s.blk
  refine ⟨?_, by rw [accepted, stage]; exact after⟩
  show entryUpc (firstStage i) = .uOpen
  revert after
  cases firstStage i <;> simp [afterOpen, entryUpc]

theorem runEngine_opened (after : afterOpen (firstStage i) = some next) (answers : s.answers = .ok x :: rest) :
    runEngine (n + 1) (accepted i s) = runEngine n (opened i s next rest) := by
  obtain ⟨position, stage⟩ := accepted_at_open (s := s) after
  exact runEngine_succ (engineStep_open_ok rfl position stage answers)

/-- A command whose open fails ends in that micro-step, without a `BusClose` (R77). -/
theorem exec_open_fails (idle : s.blk.busy = false) (room : 1 ≤ s.room) (after : afterOpen (firstStage i) = some next)
    (answers : s.answers = .err :: rest) :
    exec i s = .next { accepted i s with
      blk := failNow { (accepted i s).blk with errCode := .transportOpenError }
      answers := rest
      trace := s.trace ++ [⟨.busOpen s.blk.busAddr, some .err⟩] } := by
  obtain ⟨position, stage⟩ := accepted_at_open (s := s) after
  exact exec_of_run (n := 1) idle room (runEngine_succ (engineStep_open_err rfl position stage answers)) rfl

end

/-! ## VERIFY and CALIB -/

/-- Settles O34: open, identity read, close or release. -/
theorem verifyOnEveryCourseOfAnswers : Obligations.VerifyOnEveryCourseOfAnswers := by
  refine ⟨rfl, fun s rest idle room => ⟨fun v answers => ?_, fun a fails answers => ?_, fun answers => ?_⟩⟩
  · refine exec_of_run (n := 3) idle room ?_ rfl
    rw [runEngine_opened (next := .uRdid) rfl answers, runEngine_succ (engineStep_rdid rfl rfl rfl),
      runEngine_succ (engineStep_close rfl rfl), stageDone_last rfl]
    simp only [opened, accepted, List.append_assoc, List.cons_append, List.nil_append]
    rfl
  · refine exec_of_run (n := 3) idle room ?_ rfl
    rw [runEngine_opened (next := .uRdid) rfl answers, runEngine_succ (engineStep_rdid_fails rfl rfl rfl fails),
      runEngine_succ (engineStep_abort rfl rfl)]
    simp only [opened, accepted, List.append_assoc, List.cons_append, List.nil_append]
    rfl
  · rw [exec_open_fails idle (by omega) (next := .uRdid) rfl answers]
    rfl

/-- Settles O36: open, calibration read, close or release. -/
theorem calibOnEveryCourseOfAnswers : Obligations.CalibOnEveryCourseOfAnswers := by
  refine ⟨rfl, fun s rest idle room => ⟨fun bs whole answers => ?_, fun a fails answers => ?_, fun answers => ?_⟩⟩
  · refine exec_of_run (n := 3) idle room ?_ rfl
    rw [runEngine_opened (next := .uRdcal) rfl answers, runEngine_succ (engineStep_rdcal rfl rfl whole rfl),
      runEngine_succ (engineStep_close rfl rfl), stageDone_last rfl]
    simp only [opened, accepted, List.append_assoc, List.cons_append, List.nil_append]
    rfl
  · refine exec_of_run (n := 3) idle room ?_ rfl
    rw [runEngine_opened (next := .uRdcal) rfl answers, runEngine_succ (engineStep_rdcal_fails rfl rfl rfl fails),
      runEngine_succ (engineStep_abort rfl rfl)]
    simp only [opened, accepted, List.append_assoc, List.cons_append, List.nil_append]
    rfl
  · rw [exec_open_fails idle (by omega) (next := .uRdcal) rfl answers]
    rfl

/-! ## RDUT and RDUP -/

/-- The block that has accepted the measuring command `i` with accuracy `acc` (R54, R72, R90). -/
def startedBlock (i : Instr) (acc : Accuracy) (b : Block) : Block :=
  { b with
    cmd := encode i
    op := opcode i
    osrs := mapAccuracy (accBits acc)
    stage := 0
    busy := true
    done := false
    upc := .uOpen
    phase := .idle
    errCode := .none
    pollExhausted := false }

/-- The state in which that command has been accepted and no micro-step taken. -/
def startedState (i : Instr) (acc : Accuracy) (s : State) : State := { s with blk := startedBlock i acc s.blk, room := 0 }

theorem accepted_measuring {i : Instr} {acc : Accuracy} (measures : i ∈ [.rdut acc, .rdup acc, .rdpa acc]) (s : State) :
    accepted i s = startedState i acc s := by
  obtain ⟨rdut, rdup, rdpa⟩ := accField_encode_measure acc
  have facts : accField (encode i) = accBits acc ∧ opcode i ≠ 1 ∧ entryUpc (firstStage i) = .uOpen ∧
      entryPhase (firstStage i) = .idle := by
    simp only [List.mem_cons, List.not_mem_nil, or_false] at measures
    rcases measures with rfl | rfl | rfl
    · exact ⟨rdut, by simp [opcode], rfl, rfl⟩
    · exact ⟨rdup, by simp [opcode], rfl, rfl⟩
    · exact ⟨rdpa, by simp [opcode], rfl, rfl⟩
  obtain ⟨field, other, upc, phase⟩ := facts
  simp only [accepted, acceptLegal, enterStage, latchCommand, startedState, startedBlock, opcField_encode, field, other, upc,
    phase, if_false]

section
variable (q : Quantity) (acc : Accuracy) (s : State)

/-- The stage that measures a quantity. -/
def measureStage : Quantity → Stage
  | .temperature => .sMeasT
  | .pressure => .sMeasP

theorem measureStage_quantity : (measureStage q).quantity = some q := by cases q <;> rfl

/-- The one stage of the command (R71). -/
theorem stageList_measure : stageList (opcode (measureCommand q acc)) = [measureStage q] := by cases q <;> rfl

/-- The state in which a measurement has been accepted and no micro-step taken. -/
def measuringState : State := startedState (measureCommand q acc) acc s

theorem accepted_measure : accepted (measureCommand q acc) s = measuringState q acc s :=
  accepted_measuring (by cases q <;> simp [measureCommand]) s

theorem currentStage_measuringState : currentStage (measuringState q acc s).blk = some (measureStage q) := by
  rw [currentStage_of (op := opcode (measureCommand q acc)) (n := 0) rfl rfl, stageList_measure]
  rfl

theorem currentQuantity_measuringState : currentQuantity (measuringState q acc s).blk = some q := by
  rw [currentQuantity, currentStage_measuringState]
  exact measureStage_quantity q

end

/-- Settles O37: the measurement stage as one run, whose U_CLOSE ends the command. -/
theorem measurementCompletesWithTheRawValue : Obligations.MeasurementCompletesWithTheRawValue := by
  intro q acc p b0 b1 b2 rest s idle ends timeout answers room
  refine exec_of_run (n := p.stageSteps + 0) idle room ?_ rfl
  rw [accepted_measure, runEngine_measure_stage (s := measuringState q acc s) ends rfl rfl
    (currentStage_measuringState q acc s) (measureStage_quantity q) timeout answers, stageDone_last]
  · cases q <;> simp [measuringState, startedState, startedBlock, setAdc, finishOk]
  · cases q <;> rfl

/-- The same once the open and the trigger have been answered Ok: the poll loop begins. -/
def pollingState (q : Quantity) (acc : Accuracy) (s : State) (rest : List Answer) : State :=
  { measuringState q acc s with
    blk := { (measuringState q acc s).blk with handleOpen := true, phase := .triggered, pollCnt := 0, upc := .uPoll }
    answers := rest
    trace := s.trace ++ [⟨.busOpen s.blk.busAddr, some (.ok [])⟩,
      ⟨.busWrite 0xF4 (ctrlByte q (mapAccuracy (accBits acc))), some (.ok [])⟩] }

section
variable {q : Quantity} {acc : Accuracy} {s : State} {x y : List Byte} {rest : List Answer} {n : Nat}

theorem afterOpen_measure : afterOpen (firstStage (measureCommand q acc)) = some .uTrig := by cases q <;> rfl

theorem opened_measure : opened (measureCommand q acc) s .uTrig rest =
    { measuringState q acc s with
      blk := { (measuringState q acc s).blk with handleOpen := true, upc := .uTrig }
      answers := rest
      trace := s.trace ++ [⟨.busOpen s.blk.busAddr, some (.ok [])⟩] } := by
  rw [opened, accepted_measure]

theorem currentQuantity_opened : currentQuantity (opened (measureCommand q acc) s .uTrig rest).blk = some q := by
  rw [opened_measure]
  exact currentQuantity_measuringState q acc s

theorem runEngine_polling (answers : s.answers = .ok x :: .ok y :: rest) :
    runEngine (n + 1 + 1) (accepted (measureCommand q acc) s) = runEngine n (pollingState q acc s rest) := by
  rw [runEngine_opened afterOpen_measure answers,
    runEngine_succ (engineStep_trig (s := opened (measureCommand q acc) s .uTrig (.ok y :: rest)) rfl rfl currentQuantity_opened rfl),
    opened_measure]
  simp only [pollingState, List.append_assoc, List.cons_append, List.nil_append]
  rfl

end

/-- Settles O38: open, trigger, the poll loop that uses up its budget, release. -/
theorem measurementTimesOut : Obligations.MeasurementTimesOut := by
  intro q acc busy rest s idle timeout length measures answers room
  refine exec_of_run (n := 60 + 1 + 1 + 1) idle room ?_ rfl
  rw [runEngine_polling (by simpa using answers),
    runEngine_polls_timeout (s := pollingState q acc s _) length measures rfl rfl rfl timeout rfl,
    runEngine_succ (engineStep_abort rfl rfl)]
  simp only [pollingState, List.append_assoc, List.cons_append, List.nil_append]
  rfl

/-- Settles O39: each place where the transport can fail, by the run up to it and the release. -/
theorem measurementTransportFailures : Obligations.MeasurementTransportFailures := by
  intro q acc rest s idle room opened ctrl failed
  refine ⟨fun answers => ?_, fun answers => ?_, fun busy a few measures fails answers => ?_,
    fun p a ends timeout fails answers => ?_⟩
  · rw [exec_open_fails idle (by omega) afterOpen_measure answers, accepted_measure]
    rfl
  · refine exec_of_run (n := 3) idle (by omega) ?_ rfl
    rw [runEngine_opened afterOpen_measure answers,
      runEngine_succ (engineStep_trig_err rfl rfl currentQuantity_opened rfl), runEngine_succ (engineStep_abort rfl rfl),
      opened_measure]
    simp only [List.append_assoc, List.cons_append, List.nil_append]
    rfl
  · refine exec_of_run (n := 2 * busy.length + (0 + 1 + 1) + 1 + 1) idle (by omega) ?_ rfl
    rw [runEngine_polling (by simpa using answers),
      runEngine_busy_polls (s := pollingState q acc s _) busy measures (k := 0) rfl rfl rfl (by omega) rfl,
      runEngine_succ (engineStep_poll_fails rfl rfl rfl fails), runEngine_succ (engineStep_abort rfl rfl)]
    simp only [pollingState, List.append_assoc, List.cons_append, List.nil_append, Nat.zero_add]
    rfl
  · have short : 2 * p.busyBytes.length + p.clearByte.toList.length ≤ 60 := by
      obtain ⟨-, count⟩ := ends
      cases clear : p.clearByte <;> simp only [clear] at count <;> simp <;> omega
    refine exec_of_run (n := 2 * p.busyBytes.length + p.clearByte.toList.length + 2 + (0 + 1 + 1)) idle (by omega) ?_ rfl
    rw [accepted_measure, runEngine_measure_to_data (s := measuringState q acc s) ends rfl rfl
        (currentStage_measuringState q acc s) (measureStage_quantity q) timeout answers,
      runEngine_succ (engineStep_data_fails rfl rfl (by exact currentQuantity_measuringState q acc s) rfl fails),
      runEngine_succ (engineStep_abort rfl rfl)]
    simp only [measuringState, List.append_assoc, List.cons_append, List.nil_append]
    rfl

/-! ## RDPA -/

section
variable {s : State} {p : PollScript} {q : Quantity} {st next : Stage} {b0 b1 b2 : Byte} {bs : List Byte} {rest : List Answer}
  {m : Nat}

/-- A block that has measured `q` with the raw value `v` and enters the next stage of its command (R74, R96). -/
def measuredBlock (q : Quantity) (p : PollScript) (v : Word) (next : Stage) (b : Block) : Block :=
  enterStage next
    { setAdc q v b with
      stage := b.stage + 1
      handleOpen := false
      pollCnt := BitVec.ofNat 5 p.reads
      pollExhausted := b.pollExhausted || p.clearByte.isNone }

/-- A block that has read the calibration block `bs` and enters the next stage of its command (R74, R84). -/
def calibratedBlock (bs : List Byte) (next : Stage) (b : Block) : Block :=
  enterStage next { b with stage := b.stage + 1, handleOpen := false, cal := decodeCal bs, calLoaded := true }

/-- A measurement stage that another stage follows. -/
theorem runEngine_measure_then (ends : p.ends) (busy : s.blk.busy = true) (position : s.blk.upc = .uOpen)
    (stage : currentStage s.blk = some st) (quantity : st.quantity = some q)
    (following : (stageList s.blk.op)[s.blk.stage.toNat + 1]? = some next)
    (timeout : p.clearByte = none → s.blk.timeoutEn = false) (answers : s.answers = measureAnswers p b0 b1 b2 ++ rest) :
    runEngine (p.stageSteps + m) s = runEngine m { s with
      answers := rest
      trace := s.trace ++ measureExchanges s.blk.busAddr q s.blk.osrs p b0 b1 b2
      blk := measuredBlock q p ((decodeRaw b0 b1 b2).setWidth 32) next s.blk } := by
  rw [runEngine_measure_stage ends busy position stage quantity timeout answers,
    stageDone_next (st := next) (by cases q <;> exact following)]
  cases q <;> rfl

/-- A calibration stage that another stage follows. -/
theorem runEngine_calibrate_then (busy : s.blk.busy = true) (position : s.blk.upc = .uOpen)
    (stage : currentStage s.blk = some .sCal) (following : (stageList s.blk.op)[s.blk.stage.toNat + 1]? = some next)
    (whole : bs.length = 24) (answers : s.answers = [.ok [], .ok bs] ++ rest) :
    runEngine (m + 1 + 1 + 1) s = runEngine m { s with
      answers := rest
      trace := s.trace ++
        [⟨.busOpen s.blk.busAddr, some (.ok [])⟩, ⟨.busRead 0x88 24, some (.ok bs)⟩, ⟨.busClose, none⟩]
      blk := calibratedBlock bs next s.blk } := by
  rw [runEngine_calibration_stage busy position stage whole answers, stageDone_next (st := next) (by exact following)]
  rfl

end

/-- The block of an RDPA that has read both raw values and the calibration and enters its compensation stages. -/
def rdpaReadBlock (acc : Accuracy) (p p' : PollScript) (adcT adcP : Word) (bs : List Byte) (b : Block) : Block :=
  calibratedBlock bs .sCompT
    (measuredBlock .pressure p' adcP .sCal (measuredBlock .temperature p adcT .sMeasP (startedBlock (.rdpa acc) acc b)))

/-- The three bus stages of RDPA. -/
theorem runEngine_rdpa_reads {acc : Accuracy} {p p' : PollScript} {b0 b1 b2 c0 c1 c2 : Byte} {bs : List Byte}
    {rest : List Answer} {s : State} {m : Nat} (ends : p.ends) (ends' : p'.ends) (whole : bs.length = 24)
    (timeout : p.clearByte = none ∨ p'.clearByte = none → s.blk.timeoutEn = false)
    (answers : s.answers = measureAnswers p b0 b1 b2 ++ (measureAnswers p' c0 c1 c2 ++ ([.ok [], .ok bs] ++ rest))) :
    runEngine (p.stageSteps + (p'.stageSteps + (m + 1 + 1 + 1))) (startedState (.rdpa acc) acc s) = runEngine m { s with
      room := 0
      answers := rest
      trace := s.trace ++ measureExchanges s.blk.busAddr .temperature (mapAccuracy (accBits acc)) p b0 b1 b2 ++
        measureExchanges s.blk.busAddr .pressure (mapAccuracy (accBits acc)) p' c0 c1 c2 ++
        [⟨.busOpen s.blk.busAddr, some (.ok [])⟩, ⟨.busRead 0x88 24, some (.ok bs)⟩, ⟨.busClose, none⟩]
      blk := rdpaReadBlock acc p p' ((decodeRaw b0 b1 b2).setWidth 32) ((decodeRaw c0 c1 c2).setWidth 32) bs s.blk } := by
  rw [runEngine_measure_then (s := startedState (.rdpa acc) acc s) (next := .sMeasP) ends rfl rfl rfl rfl rfl
    (fun never => timeout (.inl never)) answers]
  refine (runEngine_measure_then (st := .sMeasP) (q := .pressure) (next := .sCal) (b0 := c0) (b1 := c1) (b2 := c2)
    (rest := [.ok [], .ok bs] ++ rest) ends' ?_ ?_ ?_ rfl ?_ ?_ ?_).trans ?_
  · rfl
  · rfl
  · rfl
  · rfl
  · exact fun never => timeout (.inr never)
  · rfl
  refine (runEngine_calibrate_then (next := .sCompT) (bs := bs) (rest := rest) ?_ ?_ ?_ ?_ whole ?_).trans ?_ <;> rfl

/-- Settles O51: two measurement stages, the calibration stage and the two compensations, each as one run. -/
theorem rdpaCompletesWithThePressure : Obligations.RdpaCompletesWithThePressure := by
  intro acc p p' b0 b1 b2 c0 c1 c2 bs rest s idle ends ends' whole timeout answers room osrs read r w
  simp only [List.append_assoc] at answers
  refine exec_of_run (n := p.stageSteps + (p'.stageSteps + (0 + 1 + 1 + 1 + 1 + 1))) idle (by omega) ?_ rfl
  rw [accepted_measuring (acc := acc) (by simp),
    runEngine_rdpa_reads ends ends' whole timeout answers]
  refine (runEngine_compensate ?_ ?_ ?_ ?_).trans ?_ <;> rfl

end Sys2Proof.Machine
end

section
/-! The compensation arithmetic (spec 43_compensation.md sections 1 to 3; 00_scope.md R7): the primitives as bit-vector operations, the
two functions on all words, the temperature function where nothing overflows, and the division. -/

namespace Sys2Proof.Machine

/-! ## The primitives as bit-vector operations -/

section
variable (a b : Word) (n : Nat)

theorem wrap32_add (x y : Int) : wrap32 (x + y) = wrap32 x + wrap32 y := BitVec.ofInt_add x y

theorem add32_eq_add : add32 a b = a + b := by
  rw [add32, wrap32_add, wrap32_toInt_self, wrap32_toInt_self]

theorem mul32_eq_mul : mul32 a b = a * b := by
  rw [mul32, wrap32_mul, wrap32_toInt_self, wrap32_toInt_self]

theorem ushl32_eq_shiftLeft : ushl32 a n = a <<< n := by
  apply BitVec.eq_of_toNat_eq
  rw [ushl32_toNat, BitVec.toNat_shiftLeft, Nat.shiftLeft_eq]

theorem shl32_eq_shiftLeft : shl32 a n = a <<< n := by
  have factor : wrap32 (2 ^ n) = BitVec.ofNat 32 (2 ^ n) := by
    rw [wrap32, ← BitVec.ofInt_natCast, Nat.cast_pow, Nat.cast_ofNat]
  rw [shl32, wrap32_mul, wrap32_toInt_self, factor, ← ushl32_eq_shiftLeft, ushl32, BitVec.ofNat_mul, BitVec.ofNat_toNat,
    BitVec.setWidth_eq]

theorem asr32_eq_sshiftRight : asr32 a n = a.sshiftRight n := by
  apply BitVec.eq_of_toInt_eq
  rw [asr32_toInt, BitVec.toInt_sshiftRight, Int.shiftRight_eq_div_pow]
  norm_cast

theorem lsr32_eq_ushiftRight : lsr32 a n = a >>> n := by
  apply BitVec.eq_of_toNat_eq
  rw [lsr32_toNat, BitVec.toNat_ushiftRight, Nat.shiftRight_eq_div_pow]

theorem udiv32_eq_div : udiv32 a b = a / b := by
  apply BitVec.eq_of_toNat_eq
  rw [udiv32_toNat, BitVec.toNat_udiv]

end

/-- Settles O41: each primitive by its own equation. -/
theorem primitivesAreTwosComplementOperations : Obligations.PrimitivesAreTwosComplementOperations :=
  fun a b n _ => ⟨add32_eq_add a b, sub32_eq_sub a b, mul32_eq_mul a b, umul32_eq_mul a b, shl32_eq_shiftLeft a n,
    ushl32_eq_shiftLeft a n, asr32_eq_sshiftRight a n, lsr32_eq_ushiftRight a n, udiv32_eq_div a b⟩

/-! ## The two functions on all words -/

/-- Settles O59: R101 with each primitive read as its bit-vector operation. -/
theorem temperatureOnAllWords : Obligations.TemperatureOnAllWords := by
  intro adc t1 t2 t3 d1 d2 fine
  have fine_eq : compTFine ⟨adc, t1, t2, t3⟩ = fine := by
    simp only [compTFine, tempVar1, tempVar2, add32_eq_add, sub32_eq_sub, mul32_eq_mul, shl32_eq_shiftLeft,
      asr32_eq_sshiftRight, fine, d1, d2]
  rw [compT, fine_eq, compTOut, asr32_eq_sshiftRight, add32_eq_add, mul32_eq_mul]

/-- Settles O60: R104 and R108 with each primitive read as its bit-vector operation. -/
theorem pressureBodiesOnAllWords : Obligations.PressureBodiesOnAllWords := by
  refine ⟨fun fine p1 p2 p3 p4 p5 p6 => ?_, fun p p7 p8 p9 => ?_, fun x => rfl⟩
  · simp only [pFront, add32_eq_add, sub32_eq_sub, mul32_eq_mul, shl32_eq_shiftLeft, asr32_eq_sshiftRight]
    rfl
  · simp only [pCorr, add32_eq_add, mul32_eq_mul, umul32_eq_mul, asr32_eq_sshiftRight, lsr32_eq_ushiftRight]

/-! ## The temperature function where nothing overflows -/

/-- A raw value is not negative as a signed word. -/
theorem toInt_of_raw {adc : Word} (raw : adc.toNat ≤ 0xFFFFF) : adc.toInt = adc.toNat :=
  BitVec.toInt_eq_toNat_of_lt (by omega)

section
variable {adc : Word} {t1 t2 t3 : Half} (raw : adc.toNat ≤ 0xFFFFF)
include raw

/-- The first difference of R101 is exact: 20 bits less 17. -/
theorem tempDiff1_toInt :
    (sub32 (asr32 adc 3) (shl32 (zext32 t1) 1)).toInt = (adc.toNat : Int) / 8 - 2 * t1.toNat := by
  have t1_lt := t1.isLt
  have shifted : (shl32 (zext32 t1) 1).toInt = (t1.toNat : Int) * 2 ^ 1 := by
    rw [shl32_toInt_of_range] <;> rw [zext32_toInt] <;> omega
  rw [sub32_toInt_of_range] <;> rw [asr32_toInt, shifted, toInt_of_raw raw] <;> omega

theorem tempDiff2_toInt :
    (sub32 (asr32 adc 4) (zext32 t1)).toInt = (adc.toNat : Int) / 16 - t1.toNat := by
  have t1_lt := t1.isLt
  rw [sub32_toInt_of_range] <;> rw [asr32_toInt, zext32_toInt, toInt_of_raw raw] <;> omega

theorem tempVar1_toInt (d1 : Int) (diff : d1 = (adc.toNat : Int) / 8 - 2 * t1.toNat) (t3 : Word)
    (lo : -2 ^ 31 ≤ d1 * t2.toInt) (hi : d1 * t2.toInt < 2 ^ 31) :
    (tempVar1 ⟨adc, zext32 t1, sext32 t2, t3⟩).toInt = d1 * t2.toInt / 2048 := by
  have exact_diff := (tempDiff1_toInt (t1 := t1) raw).trans diff.symm
  have product : (mul32 (sub32 (asr32 adc 3) (shl32 (zext32 t1) 1)) (sext32 t2)).toInt = d1 * t2.toInt := by
    rw [mul32_toInt_of_range] <;> rw [exact_diff, sext32_toInt] <;> assumption
  rw [tempVar1, asr32_toInt, product]
  norm_num

theorem tempVar2_toInt (d2 : Int) (diff : d2 = (adc.toNat : Int) / 16 - t1.toNat) (t2 : Word) (square : d2 * d2 < 2 ^ 31)
    (lo : -2 ^ 31 ≤ d2 * d2 / 4096 * t3.toInt) (hi : d2 * d2 / 4096 * t3.toInt < 2 ^ 31) :
    (tempVar2 ⟨adc, zext32 t1, t2, sext32 t3⟩).toInt = d2 * d2 / 4096 * t3.toInt / 16384 := by
  have exact_diff := (tempDiff2_toInt (t1 := t1) raw).trans diff.symm
  have squared : (mul32 (sub32 (asr32 adc 4) (zext32 t1)) (sub32 (asr32 adc 4) (zext32 t1))).toInt = d2 * d2 := by
    rw [mul32_toInt_of_range] <;> rw [exact_diff]
    · exact le_trans (by norm_num) (mul_self_nonneg d2)
    · exact square
  have scaled : (asr32 (mul32 (sub32 (asr32 adc 4) (zext32 t1)) (sub32 (asr32 adc 4) (zext32 t1))) 12).toInt =
      d2 * d2 / 4096 := by
    rw [asr32_toInt, squared]
    norm_num
  have product := mul32_toInt_of_range (a := asr32 (mul32 (sub32 (asr32 adc 4) (zext32 t1)) (sub32 (asr32 adc 4) (zext32 t1))) 12)
    (b := sext32 t3) (by rwa [scaled, sext32_toInt]) (by rwa [scaled, sext32_toInt])
  rw [tempVar2, asr32_toInt, product, scaled, sext32_toInt]
  norm_num

end

/-- Settles O44: the products are in range by the premises, and what the shifts leave of them is too small to overflow. -/
theorem temperatureIsExactWithoutOverflow : Obligations.TemperatureIsExactWithoutOverflow := by
  intro adc t1 t2 t3 raw d1 d2 var1 var2 product1 square product2
  have var1_eq : (tempVar1 ⟨adc, zext32 t1, sext32 t2, sext32 t3⟩).toInt = var1 :=
    tempVar1_toInt raw d1 rfl _ product1.1 product1.2
  have var2_eq : (tempVar2 ⟨adc, zext32 t1, sext32 t2, sext32 t3⟩).toInt = var2 :=
    tempVar2_toInt raw d2 rfl _ square product2.1 product2.2
  have range1 : -2 ^ 20 ≤ var1 ∧ var1 < 2 ^ 20 := by omega
  have range2 : -2 ^ 17 ≤ var2 ∧ var2 < 2 ^ 17 := by omega
  have fine_eq : (compTFine ⟨adc, zext32 t1, sext32 t2, sext32 t3⟩).toInt = var1 + var2 := by
    rw [compTFine, add32_toInt_of_range] <;> rw [var1_eq, var2_eq] <;> omega
  refine ⟨fine_eq, ?_⟩
  show (compTOut (compTFine ⟨adc, zext32 t1, sext32 t2, sext32 t3⟩)).toInt = _
  generalize compTFine ⟨adc, zext32 t1, sext32 t2, sext32 t3⟩ = fine at fine_eq
  have five : (5 : Word).toInt = 5 := rfl
  have offset : (128 : Word).toInt = 128 := rfl
  have scaled : (mul32 fine 5).toInt = (var1 + var2) * 5 := by
    rw [mul32_toInt_of_range] <;> rw [fine_eq, five] <;> omega
  have rounded : (add32 (mul32 fine 5) 128).toInt = (var1 + var2) * 5 + 128 := by
    rw [add32_toInt_of_range] <;> rw [scaled, offset] <;> omega
  rw [compTOut, asr32_toInt, rounded]
  norm_num

/-! ## The division -/

/-- Below 2^31 the doubling does not wrap, so the quotient is exact (R107). -/
theorem divide_small_toNat {p d : Word} (small : p.toNat < 2 ^ 31) : (divide p d).toNat = 2 * p.toNat / d.toNat := by
  rw [divide, if_pos (c := p.toNat < 0x80000000) small, udiv32_toNat, ushl32_toNat, Nat.mod_eq_of_lt (by omega), Nat.pow_one, Nat.mul_comm]

theorem divide_large_toNat {p d : Word} (large : 2 ^ 31 ≤ p.toNat) :
    (divide p d).toNat = 2 * (p.toNat / d.toNat) % 2 ^ 32 := by
  rw [divide, if_neg (c := p.toNat < 0x80000000) (Nat.not_lt.mpr large), umul32_toNat, udiv32_toNat, Nat.mul_comm]
  rfl

/-- Doubling the quotient loses at most one against the quotient of the double. -/
theorem two_mul_div_bounds (p d : Nat) : 2 * (p / d) ≤ 2 * p / d ∧ 2 * p / d ≤ 2 * (p / d) + 1 := by
  rcases Nat.eq_zero_or_pos d with rfl | pos
  · simp
  · refine ⟨Nat.mul_div_le_mul_div_assoc 2 p d, ?_⟩
    have below : p < p / d * d + d := Nat.lt_div_mul_add pos
    rw [← Nat.lt_succ_iff, Nat.div_lt_iff_lt_mul pos]
    calc
      2 * p < 2 * (p / d * d + d) := by omega
      _ = (2 * (p / d) + 1).succ * d := by rw [Nat.succ_eq_add_one]; ring

/-- Settles O49: the two branches, and for a divisor from 2 on the doubled quotient does not wrap. -/
theorem divisionIsFloorOfTwicePOverD : Obligations.DivisionIsFloorOfTwicePOverD := by
  intro p d nonzero
  refine ⟨divide_small_toNat, divide_large_toNat, fun large not_one => ?_⟩
  have two_le : 2 ≤ d.toNat := by
    have not_zero : d.toNat ≠ 0 := fun zero => nonzero (BitVec.eq_of_toNat_eq zero)
    have not_one' : d.toNat ≠ 1 := fun one => not_one (BitVec.eq_of_toNat_eq one)
    omega
  have no_wrap : 2 * (p.toNat / d.toNat) < 2 ^ 32 := by
    have half : p.toNat / d.toNat ≤ p.toNat / 2 := Nat.div_le_div_left two_le (by decide)
    have := p.isLt
    omega
  rw [divide_large_toNat large, Nat.mod_eq_of_lt no_wrap]
  exact two_mul_div_bounds p.toNat d.toNat

/-! ## Examples and the zero coefficient -/

/-- Settles O45: both functions evaluated on the operands of the two vectors. -/
theorem workedExamples : Obligations.WorkedExamples := by
  unfold Obligations.WorkedExamples
  decide

/-- The default front end gives 0 for P1 = 0 (R104). -/
theorem pFront_var1_of_zero {x : Config.FrontInput} (zero : x.p1 = 0) : (pFront x).var1 = 0 := by
  simp [pFront, zero]

end Sys2Proof.Machine
end

section
/-! The host's side (spec 10_state.md R11 to R21; 30_encoding.md R59, R60): reads, writes, reset, the status word, and the lines of a
host program. -/

namespace Sys2Proof.Machine

/-! ## The status word -/

theorem errCode_isFailure_iff (e : ErrCode) : e.isFailure = true ↔ e.code.toNat ∈ [1, 2, 5, 6] := by cases e <;> decide

/-- The bits of `STATUS` (R15): PHASE, then each flag down to BUSY. -/
theorem status_fields (b : Block) :
    b.status.getLsbD 0 = b.busy ∧ b.status.getLsbD 1 = b.done ∧ b.status.getLsbD 2 = b.err ∧
      b.status.getLsbD 3 = b.calLoaded ∧ b.status.getLsbD 4 = b.fineValid ∧ b.status.getLsbD 5 = b.idMatch ∧
      b.status.getLsbD 6 = b.pollExhausted ∧ b.status.getLsbD 7 = b.handleOpen ∧
      b.status.extractLsb' 8 3 = b.phase.code := by
  unfold Block.status
  refine ⟨?_, ?_, ?_, ?_, ?_, ?_, ?_, ?_, ?_⟩
  case refine_9 =>
    iterate 8 rw [BitVec.extractLsb'_append_eq_of_le (by decide)]
    exact BitVec.extractLsb'_eq_self
  all_goals
    simp only [BitVec.getLsbD_append]
    simp

/-- Settles O10: the fields of the status word; the numbers of PHASE and ERRCODE by evaluation. -/
theorem statusBitsAndCodes : Obligations.StatusBitsAndCodes := by
  refine ⟨fun b => ?_, rfl, rfl⟩
  obtain ⟨busy, done, err, rest⟩ := status_fields b
  exact ⟨busy, done, by rw [err]; exact errCode_isFailure_iff b.errCode, rest⟩

/-- Settles O47: P1 = 0 takes the zero guard, whose condition is no failure. -/
theorem zeroP1GivesZeroPressure : Obligations.ZeroP1GivesZeroPressure := by
  intro s idle has_room zero
  have guard : compP (pressOperands s.blk) = (0, true) :=
    compPWith_of_zero (pFront_var1_of_zero (x := (pressOperands s.blk).front) (by simp [pressOperands, zero]))
  have ran := exec_compp idle has_room
  obtain ⟨pOut, code⟩ := exec_compp_results idle has_room ran
  rw [guard] at pOut code
  refine ⟨_, ran, pOut, code, by rw [uCompP, stageDone_last rfl, finishOk_phase],
    by rw [uCompP, stageDone_last rfl, finishOk_busy], ?_, ?_⟩
  · show BitVec.setWidth 32 (ErrCode.code _) = 4
    rw [code]
    rfl
  · obtain ⟨-, -, err, -⟩ := status_fields (uCompP (acceptLegal (encode .compp) .sCompP s.blk))
    show BitVec.getLsbD (BitVec.setWidth 32 (Block.status _)) 2 = false
    rw [BitVec.getLsbD_setWidth, err, Block.err, code]
    rfl

/-! ## Reads and writes -/

/-- Settles O4: the step serves the write, and `serveCommand` runs the word's command. -/
theorem stepRunsTheDecodedCommand : Obligations.StepRunsTheDecodedCommand :=
  fun _ _ _ _ _ => step_legal_word

theorem step_read {s : State} {i : BitVec 5} {n : Nat} {rest : List Turn} (read : s.inputs = ⟨.read i, n⟩ :: rest) :
    step s = runEngine n { s with inputs := rest, room := 0, replies := s.replies ++ [hostRead i s.blk] } :=
  step_serve read

/-- A host write to any index of a busy block is dropped (R21 c). -/
theorem step_write_busy {s : State} {i : BitVec 5} {v : Word} {n : Nat} {rest : List Turn} (busy : s.blk.busy = true)
    (write : s.inputs = ⟨.write i v, n⟩ :: rest) : step s = runEngine n { s with inputs := rest, room := 0 } := by
  by_cases command : i = 0
  · subst command
    exact step_command_write_busy write busy
  · rw [step_serve write]
    simp only [serve, serveWrite, if_neg command, hostWriteReg, busy, if_true]
    rfl

/-- Settles O7: `serveWrite` drops a write of a busy block, whatever its index. -/
theorem busyBlockDropsEveryHostWrite : Obligations.BusyBlockDropsEveryHostWrite :=
  fun _ _ _ _ _ busy write => step_write_busy busy write

/-- Settles O8: a read records `hostRead`, whose table is R11's. -/
theorem hostReadReturnsTheRegister : Obligations.HostReadReturnsTheRegister := by
  refine ⟨fun s i rest read => step_read read, fun b => ⟨rfl, rfl, rfl, ?_, rfl, rfl, rfl, rfl, rfl, rfl, rfl, ?_⟩⟩
  · cases enabled : b.timeoutEn <;> simp [hostRead, enabled]
  · intro i unmapped
    revert i
    simp [hostRead]

/-- What `storeReg` writes, register by register (R11, R12). -/
theorem storeReg_eq (i : BitVec 5) (v : Word) (b : Block) : storeReg i v b =
    { b with
      timeoutEn := if i = 0x03 then v.getLsbD 0 else b.timeoutEn
      busAddr := if i = 0x04 then v.setWidth 7 else b.busAddr
      adcT := if i = 0x05 then v else b.adcT
      adcP := if i = 0x06 then v else b.adcP
      tFine := if i = 0x07 then v else b.tFine
      cal := {
        t1 := if i = 0x10 then v.setWidth 16 else b.cal.t1
        t2 := if i = 0x11 then v.setWidth 16 else b.cal.t2
        t3 := if i = 0x12 then v.setWidth 16 else b.cal.t3
        p1 := if i = 0x13 then v.setWidth 16 else b.cal.p1
        p2 := if i = 0x14 then v.setWidth 16 else b.cal.p2
        p3 := if i = 0x15 then v.setWidth 16 else b.cal.p3
        p4 := if i = 0x16 then v.setWidth 16 else b.cal.p4
        p5 := if i = 0x17 then v.setWidth 16 else b.cal.p5
        p6 := if i = 0x18 then v.setWidth 16 else b.cal.p6
        p7 := if i = 0x19 then v.setWidth 16 else b.cal.p7
        p8 := if i = 0x1A then v.setWidth 16 else b.cal.p8
        p9 := if i = 0x1B then v.setWidth 16 else b.cal.p9 } } := by
  obtain ⟨index⟩ := i
  fin_cases index <;> rfl

/-- Settles O9: the low bits of a word are its `setWidth`, and `storeReg_eq` says where they go. -/
theorem hostWriteStoresTheLowBits : Obligations.HostWriteStoresTheLowBits := by
  intro s i v rest idle not_cmd write
  have low7 : v.setWidth 7 = v.extractLsb' 0 7 := BitVec.setWidth_eq_extractLsb' (by decide)
  have low16 : v.setWidth 16 = v.extractLsb' 0 16 := BitVec.setWidth_eq_extractLsb' (by decide)
  rw [step_write_register idle not_cmd write, storeReg_eq, low7, low16]

/-- Settles O12: `Reset` replaces the block, and the block after reset is idle. -/
theorem resetWorksFromEveryState : Obligations.ResetWorksFromEveryState := by
  intro s n rest reset
  rw [step_serve reset]
  exact engineTurn_idle rfl

/-- Settles O14: with no input to come the turn is one engine step, which an idle block and one without its answer do not take. -/
theorem engineRestsWhenIdleAndWaitsForAnswers : Obligations.EngineRestsWhenIdleAndWaitsForAnswers := by
  refine ⟨fun s => step_at_rest, fun s e no_input outstanding no_answer => ?_⟩
  rw [State.outstanding] at outstanding
  split at outstanding
  · next busy =>
    obtain ⟨event, answered⟩ := Option.filter_eq_some_iff.mp outstanding
    rw [step_engine no_input, engineStep_waits busy event answered no_answer]
  · cases outstanding

end Sys2Proof.Machine
end

section
/-! The micro-steps one by one (spec 40_sequencer.md R73, R76; 41_identity_calibration.md R82, R84; 42_measurement.md R93 to R96), as
steps of the machine with no input to come. -/

namespace Sys2Proof.Machine

/-- Settles O1: each word by evaluation of the decoder. -/
theorem decodeReadsTheTableWords : Obligations.DecodeReadsTheTableWords :=
  ⟨rfl, rfl, rfl, rfl, rfl, rfl, rfl⟩

/-- Settles O32: the eight values, one by one. -/
theorem accuracyMapsToOneToFive : Obligations.AccuracyMapsToOneToFive := by
  unfold Obligations.AccuracyMapsToOneToFive
  decide

/-- Settles O21: `afterOpen` names the micro-step of each bus stage. -/
theorem openMicroStep : Obligations.OpenMicroStep := by
  intro s st a rest no_input busy position stage bus answers
  rw [step_engine no_input]
  obtain ⟨next, after⟩ := exists_afterOpen bus
  have bound : (currentStage s.blk).bind afterOpen = some next := by rw [stage]; exact after
  refine ⟨?_, ?_⟩
  · rintro x rfl
    rw [engineStep_open_ok busy position bound answers]
    cases st <;> cases after <;> rfl
  · rintro rfl
    rw [engineStep_open_err busy position bound answers]
    rfl

/-- A micro-step that reads or writes raises TransportIOError when it hears Err (R76). -/
theorem effectOf_err {b : Block} {e : Event} (event : eventOf b = some e)
    (io : (∃ r n, e = .busRead r n) ∨ ∃ r v, e = .busWrite r v) :
    effectOf .err b = some (raise true .transportIOError b) := by
  unfold eventOf at event
  split at event
  case h_2 => split at event <;> cases event; simp at io
  case h_5 position | h_8 position =>
    split at event <;> cases event
    next quantity => simp [effectOf, position, quantity, uTrig, uData]
  case h_3 position | h_4 position | h_6 position => simp [effectOf, position, uRdid, uRdcal, uPoll]
  all_goals cases event; try simp at io

/-- Settles O23: a failed read or write raises TransportIOError, a used-up budget TimeoutError, and `U_ABORT` ends the command. -/
theorem failureWithTheHandleReleasesItAndEndsTheCommand :
    Obligations.FailureWithTheHandleReleasesItAndEndsTheCommand := by
  intro s no_input busy
  rw [step_engine no_input]
  refine ⟨fun r n a rest event answers fails => ?_, fun r v rest event answers => ?_, fun position used_up timeout => ?_,
    fun position => ?_⟩
  · exact engineStep_read_fails busy event (effectOf_err event (.inl ⟨r, n, rfl⟩)) answers fails
  · rw [engineStep_answered busy event rfl answers, commit]
    simp only [Event.heard, effectOf_err event (.inr ⟨r, v, rfl⟩)]
    rfl
  · rw [engineStep_delay busy position, uDelay_timeout used_up.ge timeout]
  · exact engineStep_abort busy position

/-- Settles O24: the three outcomes of the identity read. -/
theorem readIdentityMicroStep : Obligations.ReadIdentityMicroStep := by
  intro s a rest no_input busy position answers
  rw [step_engine no_input]
  refine ⟨?_, ?_, engineStep_rdid_fails busy position answers⟩
  · rintro rfl
    exact engineStep_rdid busy position answers
  · rintro v differs rfl
    rw [engineStep_rdid busy position answers, if_neg differs, decide_eq_false differs]

/-- Settles O25: both outcomes of the calibration read. -/
theorem readCalibrationMicroStep : Obligations.ReadCalibrationMicroStep := by
  intro s a rest no_input busy position answers
  rw [step_engine no_input]
  refine ⟨?_, engineStep_rdcal_fails busy position answers⟩
  rintro bs whole rfl
  exact engineStep_rdcal busy position whole answers

/-- Settles O26: the trigger write with each of its answers. -/
theorem triggerMicroStep : Obligations.TriggerMicroStep := by
  intro s q a rest no_input busy position quantity answers ctrl
  have byte : ctrl = ctrlByte q s.blk.osrs := by cases q <;> rfl
  rw [step_engine no_input, byte]
  refine ⟨?_, ?_⟩
  · rintro x rfl
    exact engineStep_trig busy position quantity answers
  · rintro rfl
    exact engineStep_trig_err busy position quantity answers

/-- Bit 3 of a byte as a number (R56). -/
theorem measuring_iff (v : Byte) : measuring v = true ↔ v.toNat / 8 % 2 ≠ 0 := by
  rw [measuring, BitVec.getLsbD, Nat.testBit_eq_decide_div_mod_eq]
  simp

/-- Settles O27: bit 3 as `measuring`, and the poll count of a block that meets the invariant. -/
theorem pollMicroStepTestsBitThree : Obligations.PollMicroStepTestsBitThree := by
  intro s a rest no_input busy position answers
  rw [step_engine no_input]
  refine ⟨?_, engineStep_poll_fails busy position answers, fun inv => ?_⟩
  · rintro v rfl
    rw [engineStep_poll busy position answers]
    simp only [measuring_iff, ne_eq, ite_not]
  · have entry := inv.poll_entry position
    have count := (inv.running busy).pollCnt_succ_toNat position
    exact ⟨entry, count, by omega, by omega⟩

/-- Settles O29: the data read of each quantity. -/
theorem dataMicroStepWritesTheRawValue : Obligations.DataMicroStepWritesTheRawValue := by
  intro s q a rest no_input busy position quantity answers reg
  have reg_eq : reg = dataReg q := by cases q <;> rfl
  rw [step_engine no_input, reg_eq]
  refine ⟨?_, engineStep_data_fails busy position quantity answers⟩
  rintro b0 b1 b2 rfl
  rw [engineStep_data busy position quantity answers]
  cases q <;> rfl

end Sys2Proof.Machine
end

section
/-! The lines of a host program (spec 30_encoding.md R59, R60) as steps of the machine. -/

namespace Sys2Proof.Machine

/-! ## Lines and inputs -/

/-- The turns of a program are those of its first line and then the rest. -/
theorem assemble_cons (n : Nat) (op : HostOp) (p : List HostOp) :
    assemble n (op :: p) = op.expand.map (fun x => ⟨x, n⟩) ++ assemble n p := by
  simp [assemble]

/-- Only `CMD` has index 0 (R11). -/
theorem index_ne_zero {r : Reg} (other : r ≠ .cmd) : r.index ≠ 0 := by
  cases r with
  | cmd => exact absurd rfl other
  | cal i => fin_cases i <;> decide
  | status | errcode | ctrl | busaddr | adcT | adcP | tFine | tOut | pOut => decide

/-- A command line is the write of a legal word, so it runs its command. -/
theorem step_command_line {s : State} {i : Instr} {n : Nat} {p : List HostOp} (wf : i.wf = true)
    (line : s.inputs = assemble n (.cmd i :: p)) : step s = exec i { s with inputs := assemble n p, room := n } := by
  have low_byte : ((encode i).setWidth 32).setWidth 8 = encode i := by simp
  exact step_legal_word line (by rw [low_byte, decode_encode wf])

/-! ## `SET` -/

/-- The data of `SET`, cut to the width of its register, is the value's pattern of that width (R60). -/
theorem pattern_low_bits (v : Int) :
    (BitVec.ofInt 32 v).getLsbD 0 = decide (v % 2 = 1) ∧ (BitVec.ofInt 32 v).setWidth 7 = BitVec.ofInt 7 v ∧
      (zext32 (BitVec.ofInt 16 v)).setWidth 16 = BitVec.ofInt 16 v := by
  refine ⟨?_, ?_, by simp [zext32]⟩
  · rw [← BitVec.testBit_toNat, BitVec.toNat_ofInt, Nat.testBit_zero]
    exact decide_eq_decide.mpr (by omega)
  · apply BitVec.eq_of_toNat_eq
    rw [BitVec.toNat_setWidth, BitVec.toNat_ofInt, BitVec.toNat_ofInt]
    omega

/-- `SET` of any register but `CMD`: its low bits are stored, or nothing in a read-only one (R11, R60). -/
theorem storeReg_set {r : Reg} (v : Int) (b : Block) :
    let coef (k : Fin 12) (old : Half) : Half := if r = .cal k then BitVec.ofInt 16 v else old
    storeReg r.index (r.pattern v) b =
      { b with
        timeoutEn := if r = .ctrl then decide (v % 2 = 1) else b.timeoutEn
        busAddr := if r = .busaddr then BitVec.ofInt 7 v else b.busAddr
        adcT := if r = .adcT then BitVec.ofInt 32 v else b.adcT
        adcP := if r = .adcP then BitVec.ofInt 32 v else b.adcP
        tFine := if r = .tFine then BitVec.ofInt 32 v else b.tFine
        cal := ⟨coef 0 b.cal.t1, coef 1 b.cal.t2, coef 2 b.cal.t3, coef 3 b.cal.p1, coef 4 b.cal.p2, coef 5 b.cal.p3,
          coef 6 b.cal.p4, coef 7 b.cal.p5, coef 8 b.cal.p6, coef 9 b.cal.p7, coef 10 b.cal.p8, coef 11 b.cal.p9⟩ } := by
  intro coef
  obtain ⟨bit, low7, low16⟩ := pattern_low_bits v
  rw [storeReg_eq]
  cases r with
  | cal k => simp only [Reg.pattern, low16, coef]; fin_cases k <;> rfl
  | ctrl => simp only [Reg.pattern, bit]; rfl
  | busaddr => simp only [Reg.pattern, low7]; rfl
  | cmd | status | errcode | adcT | adcP | tFine | tOut | pOut => rfl

theorem step_set_idle {s : State} {r : Reg} {v : Int} {n : Nat} {rest : List Turn} (idle : s.blk.busy = false)
    (other : r ≠ .cmd) (line : s.inputs = ⟨setInput r v, n⟩ :: rest) :
    step s = .next { s with inputs := rest, room := 0, blk := storeReg r.index (r.pattern v) s.blk } :=
  step_write_register idle (index_ne_zero other) line

/-- What `GET` replies: the register (R11, R60). -/
theorem hostRead_index (r : Reg) (b : Block) :
    hostRead r.index b = match r with
      | .cmd => b.cmd.setWidth 32
      | .status => b.status.setWidth 32
      | .errcode => b.errCode.code.setWidth 32
      | .ctrl => if b.timeoutEn then 1 else 0
      | .busaddr => b.busAddr.setWidth 32
      | .adcT => b.adcT
      | .adcP => b.adcP
      | .tFine => b.tFine
      | .tOut => b.tOut
      | .pOut => b.pOut
      | .cal k =>
        #v[b.cal.t1, b.cal.t2, b.cal.t3, b.cal.p1, b.cal.p2, b.cal.p3, b.cal.p4, b.cal.p5, b.cal.p6, b.cal.p7, b.cal.p8,
          b.cal.p9][k].setWidth 32 := by
  cases r with
  | cal k => fin_cases k <;> rfl
  | ctrl => cases enabled : b.timeoutEn <;> simp [hostRead, Reg.index, enabled]
  | cmd | status | errcode | busaddr | adcT | adcP | tFine | tOut | pOut => rfl

/-! ## `WAIT` -/

/-- Bit 0 of the word read at index 1 is BUSY (R15). -/
theorem hostRead_status_busy (b : Block) : (hostRead 1 b).getLsbD 0 = b.busy := by
  obtain ⟨busy, -⟩ := status_fields b
  show BitVec.getLsbD (b.status.setWidth 32) 0 = b.busy
  rw [BitVec.getLsbD_setWidth, busy]
  rfl

/-- One pass of `WAIT`: the status is read, and the line stays the next input exactly while BUSY is 1. -/
theorem step_wait {s : State} {n : Nat} {rest : List Turn} (line : s.inputs = ⟨.wait, n⟩ :: rest) :
    step s = runEngine n { s with
      inputs := if s.blk.busy then s.inputs else rest
      room := 0
      replies := s.replies ++ [s.blk.status.setWidth 32] } := by
  rw [step_serve line, line]
  simp only [serve, serveWait, hostRead_status_busy]
  rfl

/-! ## `SETCAL` -/

/-- Writes of coefficients of an idle block, one step each. -/
theorem runSteps_set_coefficients (vs : Vector Int 12) (n : Nat) (rest : List Turn) (ks : List (Fin 12)) :
    ∀ {s : State}, s.blk.busy = false → s.inputs = ks.map (fun k => ⟨setInput (.cal k) vs[k], n⟩) ++ rest →
      runSteps ks.length s = .next { s with
        inputs := rest
        room := if ks.isEmpty then s.room else 0
        blk := { s.blk with cal := ks.foldl (fun (c : Cal) (k : Fin 12) => c.set k (BitVec.ofInt 16 vs[k])) s.blk.cal } } := by
  induction ks with
  | nil =>
    intro s _ inputs
    cases s
    cases inputs
    rfl
  | cons k ks ih =>
    intro s idle inputs
    have stored : storeReg (Reg.index (.cal k)) (Reg.pattern (.cal k) vs[k]) s.blk =
        { s.blk with cal := s.blk.cal.set k (BitVec.ofInt 16 vs[k]) } := by
      rw [storeReg_set]
      fin_cases k <;> rfl
    rw [List.length_cons, runSteps_succ (step_set_idle (r := .cal k) (v := vs[k]) idle (by nofun) inputs), stored,
      ih (by exact idle) rfl]
    simp

/-- Settles O13: each line by the lemma about its inputs. -/
theorem hostProgramLinesExpandToAccesses : Obligations.HostProgramLinesExpandToAccesses := by
  refine ⟨fun s i n p wf line => step_command_line wf line, fun s r v n p other line => ⟨fun idle => ?_, fun busy => ?_⟩,
    fun v n p => rfl, fun s r n p line => ?_, fun s n p line => ⟨fun idle => ?_, fun busy => ?_⟩,
    fun s vs n p idle line => ?_, fun n addr acc p => ⟨rfl, rfl, rfl, rfl, rfl⟩⟩
  · intro coef
    rw [step_set_idle idle other line, storeReg_set]
    rfl
  · exact step_write_busy busy line
  · intro c
    rw [step_read line, hostRead_index]
    rfl
  · rw [step_wait line, runEngine_idle (by exact idle), idle]
    rfl
  · rw [step_wait line, busy]
    rfl
  · intro pattern
    have run := runSteps_set_coefficients vs n (assemble n p) (List.finRange 12) idle
      (by rw [line, assemble_cons, HostOp.expand, List.map_map]; rfl)
    exact run

end Sys2Proof.Machine
end
